-- ==== Sys2Proof/Word.lean ====
section
/-! DEFINITION. The word types of DPS (00_scope.md R8: a byte is 8 bits, bit 7 the most significant) and the level of a
line (00_scope.md R10). -/

namespace Sys2Proof

/-- A byte (00_scope.md R8). -/
abbrev Byte := BitVec 8

/-- A pixel of the source image as the port `px_rgb = {r, g, b}` carries it: `r` in bits 23:16, `g` in 15:8, `b` in 7:0
(10_state.md R36, R44). -/
abbrev Rgb := BitVec 24

/-- The level of a digital line (00_scope.md R10). -/
inductive Level where
  | low
  | high
  deriving DecidableEq, Repr, Inhabited

/-- The other level (40_transport_primitives.md R112, `not DC_CMD_LEVEL`). -/
def Level.opposite : Level → Level
  | .low => .high
  | .high => .low

end Sys2Proof
end

