-- ==== Sys2Proof/Config.lean ====
section
/-! DEFINITION. What an implementation fixes (00_scope.md R7, 10_state.md R21): the record of the parameters the spec leaves
OPEN, and the free values, constants without a body that no proof can evaluate. The record is carried in State, where
nothing writes it, so that a statement over all states holds for every value of every parameter (log entry 2). -/

namespace Sys2Proof

/-- One `INITSTEP`: a command byte, its argument bytes, and whether a busy-wait follows (30_encoding.md R92). -/
structure InitStep where
  cmd : Byte
  args : List Byte
  wait : Bool
  deriving DecidableEq, Repr

/-- The vendor command bytes `CMD_*`, one parameter each; the LUT family is ten bytes (30_encoding.md R90). -/
structure CommandCodes where
  panelSetting : Byte
  powerSetting : Byte
  powerOff : Byte
  powerOn : Byte
  boosterSoftStart : Byte
  deepSleep : Byte
  dataStartTransmission : Byte
  dataStop : Byte
  displayRefresh : Byte
  lut : Vector Byte 10
  pllControl : Byte
  temperatureCalibration : Byte
  vcomAndDataIntervalSetting : Byte
  tconSetting : Byte
  tconResolution : Byte
  flashControl : Byte
  revision : Byte
  getStatus : Byte
  vcomAutoMeasure : Byte
  vcomRead : Byte
  vcmDcSetting : Byte
  flashMode : Byte
  deriving DecidableEq, Repr

/-- The configuration record (00_scope.md R7; 92_eei_decisions.md, "Parameters left OPEN, in one place"). -/
structure Config where
  /-- `DC_CMD_LEVEL` (30_encoding.md R85). -/
  dcCmdLevel : Level
  /-- `CS_ACTIVE_LEVEL` (30_encoding.md R86). -/
  csActiveLevel : Level
  /-- `CMD_*` (30_encoding.md R90). -/
  codes : CommandCodes
  /-- `INIT_SEQ` (30_encoding.md R93). -/
  initSeq : List InitStep
  /-- `ARG_DEEP_SLEEP` (30_encoding.md R97). -/
  argDeepSleep : Byte
  /-- `T_REFRESH_DELAY`, ms (41_protocol_driver.md R136). -/
  tRefreshDelay : Nat
  /-- `BUSY_TIMEOUT_POLLS`; `none` is the baseline (42_busy_wait.md R175). -/
  busyTimeoutPolls : Option Nat
  /-- `Quantize` (43_image_converter.md R183), as plain data: the colours whose bit is not that of the default quantiser. Every
  quantiser that keeps black and white is such a list; the default is the empty one (log entry 11). -/
  quantizeFlips : List Rgb
  deriving DecidableEq, Repr

/-- FREE VALUE: what the panel drives on `BUSY` at the n-th sample, where the state fixes no answer (10_state.md R39: DPS
constrains it in no way; log entry 3). -/
opaque Config.busyOracle : Nat → Level

/-- FREE VALUE: whether the effect of a failed `SetLine` reached the pin (40_transport_primitives.md R117, U10: a model must
not assume either; log entry 5). -/
opaque Config.faultReached : Nat → Bool

end Sys2Proof
end

