-- ==== Sys2Proof/Machine/Params.lean ====
section
/-! DEFINITION. The constants of DPS (00_scope.md R5, R6; 10_state.md R25, R26), the constraints on the OPEN parameters, and
the values the spec takes for them unless told otherwise. -/

namespace Sys2Proof.Machine

/-- `W`, pixels (00_scope.md R5). -/
def panelW : Nat := 640

/-- `H`, pixels (00_scope.md R5). -/
def panelH : Nat := 384

/-- `widthBytes = ceil(W/8)` (30_encoding.md R101). -/
def widthBytes : Nat := (panelW + 7) / 8

/-- `heightBytes = H` (00_scope.md R5). -/
def heightBytes : Nat := panelH

/-- `BUFSZ = widthBytes * heightBytes` (00_scope.md R5). -/
def bufSz : Nat := widthBytes * heightBytes

/-- `WIRESZ = 4 * BUFSZ` (00_scope.md R5). -/
def wireSz : Nat := 4 * bufSz

/-- `T_RESET_DWELL`, ms, a lower bound (00_scope.md R6). -/
def tResetDwell : Nat := 200

/-- `T_POLL`, ms (00_scope.md R6). -/
def tPoll : Nat := 100

/-- The reset pattern high, low, high (30_encoding.md R96). -/
def resetPattern : List (Level × Nat) :=
  [(.high, tResetDwell), (.low, tResetDwell), (.high, tResetDwell)]

/-- `RES`: width high byte, width low byte, height high byte, height low byte (30_encoding.md R94). -/
def resolutionArgs : List Byte :=
  [BitVec.ofNat 8 (panelW >>> 8), BitVec.ofNat 8 (panelW &&& 0xFF), BitVec.ofNat 8 (panelH >>> 8),
    BitVec.ofNat 8 (panelH &&& 0xFF)]

/-- `0x20` to `0x29`, the default bytes of the LUT family. PRESUMED (general knowledge, G2; log entry 2). -/
def defaultLut : Vector Byte 10 :=
  ⟨#[0x20#8, 0x21#8, 0x22#8, 0x23#8, 0x24#8, 0x25#8, 0x26#8, 0x27#8, 0x28#8, 0x29#8], rfl⟩

/-- The default command bytes (30_encoding.md R90). PRESUMED (general knowledge, G2; log entry 2). -/
def defaultCodes : CommandCodes where
  panelSetting := 0x00#8
  powerSetting := 0x01#8
  powerOff := 0x02#8
  powerOn := 0x04#8
  boosterSoftStart := 0x06#8
  deepSleep := 0x07#8
  dataStartTransmission := 0x10#8
  dataStop := 0x11#8
  displayRefresh := 0x12#8
  lut := defaultLut
  pllControl := 0x30#8
  temperatureCalibration := 0x41#8
  vcomAndDataIntervalSetting := 0x50#8
  tconSetting := 0x60#8
  tconResolution := 0x61#8
  flashControl := 0x65#8
  revision := 0x70#8
  getStatus := 0x71#8
  vcomAutoMeasure := 0x80#8
  vcomRead := 0x81#8
  vcmDcSetting := 0x82#8
  flashMode := 0xE5#8

/-- The default `INIT_SEQ` (30_encoding.md R95). PRESUMED (general knowledge, G3) but for the resolution bytes and the place
of the wait; log entry 2. -/
def defaultInitSeq : List InitStep :=
  [⟨defaultCodes.powerSetting, [0x37#8, 0x00#8], false⟩,
   ⟨defaultCodes.panelSetting, [0xCF#8, 0x08#8], false⟩,
   ⟨defaultCodes.boosterSoftStart, [0xC7#8, 0xCC#8, 0x28#8], false⟩,
   ⟨defaultCodes.powerOn, [], true⟩,
   ⟨defaultCodes.pllControl, [0x3C#8], false⟩,
   ⟨defaultCodes.temperatureCalibration, [0x00#8], false⟩,
   ⟨defaultCodes.vcomAndDataIntervalSetting, [0x77#8], false⟩,
   ⟨defaultCodes.tconSetting, [0x22#8], false⟩,
   ⟨defaultCodes.tconResolution, resolutionArgs, false⟩,
   ⟨defaultCodes.vcmDcSetting, [0x1E#8], false⟩,
   ⟨defaultCodes.flashMode, [0x03#8], false⟩]

/-- The configuration the model takes unless told otherwise (00_scope.md R7). PRESUMED (general knowledge, G4 to G6; log
entry 2) but for the baseline `BUSY_TIMEOUT_POLLS = none` and the spec's own `Quantize` (43_image_converter.md R183, D18). -/
def defaultConfig : Config where
  dcCmdLevel := .low
  csActiveLevel := .low
  codes := defaultCodes
  initSeq := defaultInitSeq
  argDeepSleep := 0xA5#8
  tRefreshDelay := 100
  busyTimeoutPolls := none
  quantizeFlips := []

/-- The commands of the five named groups, in the source's order (30_encoding.md R93 (a); that the gamma/VCOM step's command
is `CMD_VCM_DC_SETTING` is read off T28). -/
def namedGroups (c : CommandCodes) : List Byte :=
  [c.powerSetting, c.panelSetting, c.boosterSoftStart, c.tconResolution, c.vcmDcSetting]

/-- The commands that `Init` may send: the rows of 30_encoding.md R90 that name `Init` in the column "emitted by DPS". -/
def initCommands (c : CommandCodes) : List Byte :=
  [c.panelSetting, c.powerSetting, c.powerOn, c.boosterSoftStart, c.pllControl, c.temperatureCalibration,
    c.vcomAndDataIntervalSetting, c.tconSetting, c.tconResolution, c.vcmDcSetting, c.flashMode]

/-- The commands that the operations send outside `INIT_SEQ` (30_encoding.md R91). -/
def operationCommands (c : CommandCodes) : List Byte :=
  [c.dataStartTransmission, c.displayRefresh, c.powerOff, c.deepSleep]

/-- The commands that DPS never sends (30_encoding.md R90, R91; 92_eei_decisions.md D27). -/
def neverSent (c : CommandCodes) : List Byte :=
  [c.dataStop, c.flashControl, c.revision, c.getStatus, c.vcomAutoMeasure, c.vcomRead] ++ c.lut.toList

/-- What the spec demands of a value of the parameters: R93 (a) the named groups in order; (b) exactly one power-on step, it
and no other waits; (c) the resolution step, which does not wait; no argument for power-on, and, since `Init` sends neither,
none for refresh and power-off (30_encoding.md R97); the steps send commands of `Init` only, and nothing that is sent shares
its byte with a command that is never sent (R90, R91; that a shared byte is no record is DEDUCED, log entry 2); the lengths
that SI and AI hold (10_state.md R28); pairwise distinct bytes for the commands sent outside `Init` and power-on
(92_eei_decisions.md D8); at least one poll before a timeout (42_busy_wait.md R175). DPS never reads this check: it says which
records are a DPS. -/
def configWf (c : Config) : Bool :=
  (namedGroups c.codes).isSublist (c.initSeq.map (·.cmd)) &&
  (c.initSeq.filter (·.cmd == c.codes.powerOn)).length == 1 &&
  c.initSeq.all (fun st => st.wait == (st.cmd == c.codes.powerOn)) &&
  c.initSeq.all (fun st => st.cmd != c.codes.tconResolution || (st.args == resolutionArgs && !st.wait)) &&
  c.initSeq.all (fun st => st.cmd != c.codes.powerOn || st.args == []) &&
  c.initSeq.all (fun st => decide (st.cmd ∈ initCommands c.codes)) &&
  c.initSeq.all (fun st => decide (st.cmd ∉ operationCommands c.codes)) &&
  (c.initSeq.map (·.cmd) ++ operationCommands c.codes).all (fun cmd => decide (cmd ∉ neverSent c.codes)) &&
  decide (c.initSeq.length ≤ 256) &&
  c.initSeq.all (fun st => decide (st.args.length ≤ 256)) &&
  decide (operationCommands c.codes ++ [c.codes.powerOn]).Nodup &&
  c.busyTimeoutPolls != some 0

end Sys2Proof.Machine
end

