-- ==== Sys2Proof/Syntax.lean ====
section
/-! DEFINITION. The instructions of DPS: one constructor for each row of spec/opcode_table.json (00_scope.md R2). -/

namespace Sys2Proof

/-- The four control lines (00_scope.md R10). -/
inductive Line where
  | dc
  | cs
  | rst
  | busy
  deriving DecidableEq, Repr

/-- The kind of a frame (30_encoding.md R84). -/
inductive Kind where
  | command
  | data
  deriving DecidableEq, Repr

/-- One entry of a reset pattern: a level and how long it is held, in ms (30_encoding.md R80, R96). -/
abbrev PulseEntry := Level × Nat

/-- The rows of the opcode table. -/
inductive Instr where
  -- host operations (30_encoding.md R82)
  | reset
  | init
  | clear
  | display
  | sleep
  | convert
  -- reserved operation codes (30_encoding.md R83)
  | reserved110
  | reserved111
  -- internal sub-sequences
  | turnOnDisplay
  | busyWait
  | encode
  | expandByteToNibblePairs (b : Byte)
  -- transport primitives (40_transport_primitives.md)
  | setLine (line : Line) (level : Level)
  | readLine (line : Line)
  | transmitByte (kind : Kind) (value : Byte)
  | pulseReset (pattern : List PulseEntry)
  | delay (ms : Nat)
  -- frames (30_encoding.md R84)
  | frameCommand (value : Byte)
  | frameData (value : Byte)
  -- vendor commands (30_encoding.md R90)
  | cmdPanelSetting
  | cmdPowerSetting
  | cmdPowerOff
  | cmdPowerOn
  | cmdBoosterSoftStart
  | cmdDeepSleep
  | cmdDataStartTransmission
  | cmdDataStop
  | cmdDisplayRefresh
  | cmdPllControl
  | cmdTemperatureCalibration
  | cmdVcomAndDataIntervalSetting
  | cmdTconSetting
  | cmdTconResolution
  | cmdFlashControl
  | cmdRevision
  | cmdGetStatus
  | cmdVcomAutoMeasure
  | cmdVcomRead
  | cmdVcmDcSetting
  | cmdFlashMode
  | cmdLut (index : Nat)
  -- wire data bytes (30_encoding.md R89)
  | wire00
  | wire03
  | wire30
  | wire33
  deriving DecidableEq, Repr

end Sys2Proof
end

