-- ==== Sys2Proof/Machine/State.lean ====
section
/-! DEFINITION. The state of DPS (10_state.md R20), as plain data: the architectural state, the ports of R44 that hold a
value between steps, the two memories of the host (R34), and the answers of the environment to come (R39). Then the state
after block reset (R42), and why a step can stop. -/

namespace Sys2Proof.Machine

/-- `LS` (10_state.md R22). -/
inductive Lifecycle where
  | unpowered
  | ready
  | sleeping
  deriving DecidableEq, Repr

/-- `STATUS` (10_state.md R23). -/
inductive Status where
  | ok
  | invalidState
  | invalidBufferSize
  | transportFault
  | timeout
  deriving DecidableEq, Repr

/-- The operation in progress (10_state.md R27). -/
inductive Op where
  | reset
  | init
  | clear
  | display
  | sleep
  | convert
  deriving DecidableEq, Repr

/-- The phases, named after the lines of the operations' pseudocode (10_state.md R27). -/
inductive Phase where
  /-- The checks: k = 0 the state check, k = 1 the length check of `Display`. -/
  | check
  /-- `PulseReset`: even k drives level k/2 of the pattern, odd k is its dwell. -/
  | pulse
  /-- `Cmd(cmd)` of step SI of `INIT_SEQ`. -/
  | initCmd
  /-- `Data(a)`, argument AI of step SI of `INIT_SEQ`. -/
  | initArg
  /-- `Cmd(CMD_DATA_START_TRANSMISSION)`. -/
  | startCmd
  /-- The wire frame, data byte k = 4*BI + PP. -/
  | stream
  /-- `Cmd(CMD_DISPLAY_REFRESH)`. -/
  | refreshCmd
  /-- `Delay(T_REFRESH_DELAY)`. -/
  | refreshDelay
  /-- `ReadLine(BUSY)` of a busy-wait, k = PC. -/
  | poll
  /-- `Delay(T_POLL)` of a busy-wait, k = PC. -/
  | pollDelay
  /-- `Cmd(CMD_POWER_OFF)`. -/
  | powerOffCmd
  /-- `Cmd(CMD_DEEP_SLEEP)`. -/
  | deepSleepCmd
  /-- `Data(ARG_DEEP_SLEEP)`. -/
  | deepSleepArg
  /-- One pixel of `Convert`, k = 640*CJ + CI. -/
  | pixel
  /-- Completion. -/
  | done
  deriving DecidableEq, Repr

/-- `SEQ`: Idle, or the triple (op, phase, k) (10_state.md R27). -/
inductive Seq where
  | idle
  | pos (op : Op) (phase : Phase) (k : Nat)
  deriving DecidableEq, Repr

/-- The names of the datapath registers (10_state.md R28). -/
inductive DpReg where
  | acc
  | inv
  | bi
  | pp
  | ci
  | cj
  | si
  | ai
  | pc
  deriving DecidableEq, Repr

/-- `DP` (10_state.md R28). `none` is the spec's own state "holds no value" (R31, R42), which every register has after block
reset and between operations; it does not stand for a missing reset value (log entry 9). The counters are naturals with the
ranges of R28 (log entry 10). -/
structure Datapath where
  acc : Option Byte
  inv : Option Byte
  bi : Option Nat
  pp : Option Nat
  ci : Option Nat
  cj : Option Nat
  si : Option Nat
  ai : Option Nat
  pc : Option Nat
  deriving DecidableEq, Repr

/-- No register holds a value (10_state.md R31). -/
def Datapath.empty : Datapath := ⟨none, none, none, none, none, none, none, none, none⟩

/-- An output latch: the level last driven, or undriven (10_state.md R32). -/
inductive Latch where
  | undriven
  | driven (level : Level)
  deriving DecidableEq, Repr

/-- `LINES` (10_state.md R32). -/
structure Lines where
  dc : Latch
  cs : Latch
  rst : Latch
  deriving DecidableEq, Repr

/-- The mark of a trace element: the effect happened, or the primitive answered `fault` (40_transport_primitives.md R117). -/
inductive Mark where
  | ok
  | failed
  deriving DecidableEq, Repr

/-- The four effects of a frame, in their order (40_transport_primitives.md R112). -/
inductive TxStage where
  | select
  | chipActive
  | transfer
  | chipInactive
  deriving DecidableEq, Repr

/-- The mark of a frame in the trace: all four effects happened, or which of them failed (log entry 12). -/
inductive TxMark where
  | ok
  | failedAt (stage : TxStage)
  deriving DecidableEq, Repr

/-- What a sample of `BUSY` gave (40_transport_primitives.md R111, R117). -/
inductive Sample where
  | level (l : Level)
  | failed
  deriving DecidableEq, Repr

/-- An element of `TR`, in the abstract form (10_state.md R38, 92_eei_decisions.md D28). -/
inductive Event where
  | setLine (line : Line) (level : Level) (mark : Mark)
  | readBusy (sample : Sample)
  | tx (kind : Kind) (value : Byte) (mark : TxMark)
  | delay (ms : Nat)
  deriving DecidableEq, Repr

/-- The input ports of the host side (10_state.md R44), as the host holds them. -/
structure Port where
  /-- `rst_n`, active low. -/
  rstN : Bool
  /-- `op_valid`. -/
  opValid : Bool
  /-- `op_code`. -/
  opCode : BitVec 3
  /-- `buf_len`, any natural. -/
  bufLen : Nat
  deriving DecidableEq, Repr

/-- `IMG` (10_state.md R36): width, height, and the pixels, pixel (x, y) under the key `x + y * w`; a pixel not listed reads
as `imgDefault`. -/
structure Image where
  w : Nat
  h : Nat
  px : List (Nat × Rgb)
  deriving DecidableEq, Repr

/-- The operands a request is presented with (41_protocol_driver.md R130, 30_encoding.md R80, R81): `buf_len` for `Display`,
`img_w` and `img_h` for `Convert`. No other operation reads any. -/
structure Operands where
  /-- The length of the buffer offered (10_state.md R35). -/
  len : Nat
  /-- The source image's width (10_state.md R36). -/
  w : Nat
  /-- The source image's height. -/
  h : Nat
  deriving DecidableEq, Repr

/-- The answers of the BUSY oracle to come (10_state.md R39): first those of `script`; then `rest` for ever, where it is
given; else `Config.busyOracle` at the number of samples taken (log entry 3). -/
structure BusyInput where
  script : List Level
  rest : Option Level
  count : Nat
  deriving DecidableEq, Repr

/-- An answer of the fault oracle (10_state.md R39). -/
inductive FaultAnswer where
  | ok
  | fault
  deriving DecidableEq, Repr

/-- The state. -/
structure State where
  /-- `LS`. -/
  ls : Lifecycle
  /-- `STATUS`. -/
  status : Status
  /-- `RUN`. -/
  run : Bool
  /-- `SEQ`. -/
  seq : Seq
  /-- The operands of the request last accepted, as they were at its acceptance: what is offered while RUN = 1 is not merged
  into the operation in progress (41_protocol_driver.md R130). -/
  operands : Operands
  /-- `DP`. -/
  dp : Datapath
  /-- `LINES`. -/
  lines : Lines
  /-- `TR`, oldest first. -/
  tr : List Event
  /-- The output port `op_done`. -/
  opDone : Bool
  /-- The host's input ports. -/
  port : Port
  /-- `IMG`, the host's. -/
  img : Image
  /-- `PBB`, the host's, as (address, byte) pairs; a byte not listed reads as `pbbDefault`. -/
  pbb : List Host.Cell
  /-- The panel's answers to come. -/
  busy : BusyInput
  /-- The fault oracle's answers to come, one for each effect that can fail; `ok` when the list is empty (log entry 4). -/
  faults : List FaultAnswer
  /-- The model's own: how many free values `Config.faultReached` were taken. -/
  freeCtr : Nat
  /-- The configuration (10_state.md R21); nothing writes it. -/
  cfg : Config
  deriving DecidableEq, Repr

/-- Why a step can stop. No spec error is among them: those are statuses (60_exceptions.md R220). All are SAFE, and none is
reached from reset. -/
inductive Fault where
  /-- A datapath register that holds no value was read (10_state.md R31 asks for a fault of the model). Raised by
  Sequencer.lean and `execConvert`. SAFE. -/
  | undefinedRegister (r : DpReg)
  /-- `SEQ` is no position of the operation in progress (10_state.md R27: it never leaves them). Raised by Sequencer.lean.
  SAFE. -/
  | noSuchPosition
  /-- An address of `PBB` that does not exist (20_memory.md R64). Raised by Sequencer.lean and `execConvert`. SAFE. -/
  | pbbAddress (address : Nat)
  deriving DecidableEq, Repr

/-- Instructions without a meaning. All are SAFE. -/
inductive Refusal where
  /-- Not modelled; raised by no arm of exec. SAFE. -/
  | notModelled (mnemonic : String)
  /-- `SetLine` of `BUSY`, which is an input (40_transport_primitives.md R110); ill-formed. Raised by `execSetLine`. SAFE. -/
  | inputLineDriven
  /-- `ReadLine` of an output line (R111); ill-formed. Raised by `execReadLine`. SAFE. -/
  | outputLineRead
  /-- A LUT command outside the family of ten (30_encoding.md R90); ill-formed. Raised by `execCmdLut`. SAFE. -/
  | noSuchLutCommand
  deriving DecidableEq, Repr

/-- The state after block reset (10_state.md R42, 70_reset_and_hazards.md R260), with a host that offers nothing, an empty
image, and an environment that has fixed no answer (log entries 2, 3, 4, 6, 8, 16, 23). -/
def State.reset : State where
  ls := .unpowered
  status := .ok
  run := false
  seq := .idle
  operands := ⟨0, 0, 0⟩
  dp := Datapath.empty
  lines := ⟨.undriven, .undriven, .undriven⟩
  tr := []
  opDone := false
  port := ⟨true, false, 0#3, 0⟩
  img := ⟨0, 0, []⟩
  pbb := []
  busy := ⟨[], none, 0⟩
  faults := []
  freeCtr := 0
  cfg := defaultConfig

end Sys2Proof.Machine
end

