-- ==== Sys2Proof/Machine/Ops.lean ====
section
/-! DEFINITION. The named operations over the state: sparse memories in canonical form, the environment's answers, the
latches and the trace, the sequencer position, and the one operation that ends an operation early or late. -/

namespace Sys2Proof.Machine

/-! ### Sparse memories -/

/-- The value at a key; `d` where nothing is listed. -/
def memRead {α : Type} (d : α) : List (Nat × α) → Nat → α
  | [], _ => d
  | (k, v) :: rest, a => if k = a then v else memRead d rest a

/-- Writing a value at a key; writing `d` removes the entry. -/
def memWrite {α : Type} [DecidableEq α] (d : α) : List (Nat × α) → Nat → α → List (Nat × α)
  | [], a, v => if v = d then [] else [(a, v)]
  | (k, w) :: rest, a, v =>
    if a < k then (if v = d then (k, w) :: rest else (a, v) :: (k, w) :: rest)
    else if a = k then (if v = d then rest else (a, v) :: rest)
    else (k, w) :: memWrite d rest a v

/-- Keys strictly rising from `lo` on and below `hi`, no entry equal to `d`. -/
def memWfFrom {α : Type} [DecidableEq α] (d : α) (hi : Nat) : Nat → List (Nat × α) → Bool
  | _, [] => true
  | lo, (k, v) :: rest => decide (lo ≤ k) && decide (k < hi) && decide (v ≠ d) && memWfFrom d hi (k + 1) rest

/-- The canonical form of a memory of `hi` cells. -/
def memWf {α : Type} [DecidableEq α] (d : α) (hi : Nat) (m : List (Nat × α)) : Bool := memWfFrom d hi 0 m

/-- What a byte of `PBB` that nothing has written reads as. DESIGN CHOICE, unsafe (log entry 8). -/
def pbbDefault : Byte := 0xFF#8

/-- What a pixel of `IMG` that is not listed reads as. DESIGN CHOICE, unsafe (log entry 8). -/
def imgDefault : Rgb := 0xFFFFFF#24

/-- `MemRead(PBB, a, 1)`, on an address that exists (20_memory.md R64). -/
def pbbByte (m : List Host.Cell) (a : Nat) : Byte := memRead pbbDefault m a

/-- `MemWrite(PBB, a, 1, v)` (00_scope.md R9). -/
def State.writePbb (a : Nat) (v : Byte) (s : State) : State := { s with pbb := memWrite pbbDefault s.pbb a v }

/-! ### Updates of single fields -/

/-- `SEQ <- (op, phase, k)` (00_scope.md R9). -/
def State.goto (op : Op) (phase : Phase) (k : Nat) (s : State) : State := { s with seq := .pos op phase k }

/-- `LS <- v`. -/
def State.setLs (v : Lifecycle) (s : State) : State := { s with ls := v }

/-- Writing the datapath registers. -/
def State.setDp (f : Datapath) (s : State) : State := { s with dp := f }

/-- Appending an element to `TR` (10_state.md R38). -/
def State.record (e : Event) (s : State) : State := { s with tr := s.tr ++ [e] }

/-- `op_done` falls: it is high only in the state a completion leaves (10_state.md R44). -/
def State.clearDone (s : State) : State := { s with opDone := false }

/-! ### The environment -/

/-- Whether the next effect that can fail is answered `fault`. -/
def State.faultNext (s : State) : Bool := s.faults.head? == some .fault

/-- One answer of the fault oracle is taken. -/
def State.takeAnswer (s : State) : State := { s with faults := s.faults.tail }

/-- The level the next sample of `BUSY` gives (10_state.md R33, R39). -/
def BusyInput.level (b : BusyInput) : Level :=
  match b.script, b.rest with
  | l :: _, _ => l
  | [], some l => l
  | [], none => Config.busyOracle b.count

/-- One sample of `BUSY` is taken. -/
def BusyInput.next (b : BusyInput) : BusyInput := { b with script := b.script.tail, count := b.count + 1 }

/-- One sample of `BUSY` is taken. -/
def State.takeSample (s : State) : State := { s with busy := s.busy.next }

/-! ### Latches -/

/-- The latch of an output line; `BUSY` has none (10_state.md R32). -/
def Lines.drive (line : Line) (level : Level) (ls : Lines) : Lines :=
  match line with
  | .dc => { ls with dc := .driven level }
  | .cs => { ls with cs := .driven level }
  | .rst => { ls with rst := .driven level }
  | .busy => ls

/-- The pin follows the drive. -/
def State.driveLine (line : Line) (level : Level) (s : State) : State := { s with lines := s.lines.drive line level }

/-- A drive that was answered `fault`: whether the pin followed is a free value (40_transport_primitives.md R117, U10). -/
def State.driveFailed (line : Line) (level : Level) (s : State) : State :=
  { s with
    lines := if Config.faultReached s.freeCtr then s.lines.drive line level else s.lines
    freeCtr := s.freeCtr + 1 }

/-! ### Completion and `raise` -/

/-- The end of an operation, by its last line or by a `raise`: STATUS written, RUN and SEQ idle, `op_done` high, the
datapath registers without a value again; LS is not written (41_protocol_driver.md R141, 60_exceptions.md R232, R233;
10_state.md R31). -/
def State.finish (st : Status) (s : State) : State :=
  { s with status := st, run := false, seq := .idle, opDone := true, dp := Datapath.empty }

/-- `raise E` (60_exceptions.md R232). This is the one way DPS takes an exception. Nothing is saved and there is no return
instruction (R234): the next request is accepted at once. -/
def State.raise (e : Status) (s : State) : State := s.finish e

/-! ### Primitives in sequence -/

/-- What one or several primitives did: whether none was answered `fault`, and the state they left. -/
structure Attempt where
  ok : Bool
  st : State

/-- The next primitive, unless one before it faulted (60_exceptions.md R223: the operation performs no further primitive). -/
def Attempt.andThen (a : Attempt) (f : State → Attempt) : Attempt :=
  match a.ok with
  | true => f a.st
  | false => a

/-- A `fault` answer raises `TransportFault` (60_exceptions.md R223). -/
def Attempt.settle (a : Attempt) : State :=
  match a.ok with
  | true => a.st
  | false => a.st.raise .transportFault

/-! ### Block reset -/

/-- Block reset (10_state.md R42, 70_reset_and_hazards.md R260 to R262): the state of DPS is that of `State.reset`; what
belongs to the host, the panel and the configuration stays. -/
def State.blockReset (s : State) : State :=
  { State.reset with
    port := s.port, img := s.img, pbb := s.pbb, busy := s.busy, faults := s.faults, freeCtr := s.freeCtr, cfg := s.cfg }

end Sys2Proof.Machine
end

