-- ==== Sys2Proof/WellFormed.lean ====
section
/-! DEFINITION. Which terms of Instr are instructions of DPS. -/

namespace Sys2Proof

/-- `SetLine` drives an output line, never `BUSY` (40_transport_primitives.md R110). -/
def Line.isOutput : Line → Bool
  | .dc => true
  | .cs => true
  | .rst => true
  | .busy => false

/-- The operands are among those the spec gives the row: `SetLine` takes an output line (R110), `ReadLine` takes `BUSY`
(R111), a LUT command is one of ten (30_encoding.md R90). Every other row takes any operand of its type. -/
def WellFormed : Instr → Bool
  | .setLine line _ => line.isOutput
  | .readLine line => line == .busy
  | .cmdLut index => decide (index < 10)
  | .reset => true
  | .init => true
  | .clear => true
  | .display => true
  | .sleep => true
  | .convert => true
  | .reserved110 => true
  | .reserved111 => true
  | .turnOnDisplay => true
  | .busyWait => true
  | .encode => true
  | .expandByteToNibblePairs _ => true
  | .transmitByte _ _ => true
  | .pulseReset _ => true
  | .delay _ => true
  | .frameCommand _ => true
  | .frameData _ => true
  | .cmdPanelSetting => true
  | .cmdPowerSetting => true
  | .cmdPowerOff => true
  | .cmdPowerOn => true
  | .cmdBoosterSoftStart => true
  | .cmdDeepSleep => true
  | .cmdDataStartTransmission => true
  | .cmdDataStop => true
  | .cmdDisplayRefresh => true
  | .cmdPllControl => true
  | .cmdTemperatureCalibration => true
  | .cmdVcomAndDataIntervalSetting => true
  | .cmdTconSetting => true
  | .cmdTconResolution => true
  | .cmdFlashControl => true
  | .cmdRevision => true
  | .cmdGetStatus => true
  | .cmdVcomAutoMeasure => true
  | .cmdVcomRead => true
  | .cmdVcmDcSetting => true
  | .cmdFlashMode => true
  | .wire00 => true
  | .wire03 => true
  | .wire30 => true
  | .wire33 => true

end Sys2Proof
end

