-- ==== Sys2Proof/Machine/Operands.lean ====
section
/-! DEFINITION. The operand forms: the pixel operand of `Convert`, the buffer operand of `Display`, the levels a frame's kind
and chip-select stand for, and the addresses of `PBB`. -/

namespace Sys2Proof.Machine

/-- `addr(i, j) = i/8 + j*widthBytes` (20_memory.md R52). -/
def pbbAddr (i j : Nat) : Nat := i / 8 + j * widthBytes

/-- The `PBB` address `a` exists (20_memory.md R64). -/
def pbbExists (a : Nat) : Bool := decide (a < bufSz)

/-- The buffer `Display` is offered has the length it demands (20_memory.md R58, 60_exceptions.md R222). -/
def bufLenOk (len : Nat) : Bool := decide (len = bufSz)

/-- `(i, j)` lies within bounds `w`, `h` (43_image_converter.md R182). -/
def inBounds (w h i j : Nat) : Bool := decide (i < w) && decide (j < h)

/-- `(i, j)` lies within the image (43_image_converter.md R182). -/
def Image.contains (img : Image) (i j : Nat) : Bool := inBounds img.w img.h i j

/-- `IMG(i, j)` (10_state.md R36). What the host answers for a pixel outside the image it holds is not stated, since `Convert`
asks for none unless the image was changed under it: `imgDefault`. DESIGN CHOICE, unsafe (log entries 8, 23). -/
def Image.pixel (img : Image) (i j : Nat) : Rgb :=
  match img.contains i j with
  | true => memRead imgDefault img.px (i + j * img.w)
  | false => imgDefault

/-- The canonical form of an image: its pixels lie within it. -/
def Image.wf (img : Image) : Bool := memWf imgDefault (img.w * img.h) img.px

/-- The red channel, bits 23:16 (10_state.md R44). -/
def red (p : Rgb) : Nat := (p.extractLsb' 16 8).toNat

/-- The green channel, bits 15:8. -/
def green (p : Rgb) : Nat := (p.extractLsb' 8 8).toNat

/-- The blue channel, bits 7:0. -/
def blue (p : Rgb) : Nat := (p.extractLsb' 0 8).toNat

/-- The level of `DC` for a frame of a kind (30_encoding.md R85). -/
def kindLevel (c : Config) : Kind → Level
  | .command => c.dcCmdLevel
  | .data => c.dcCmdLevel.opposite

/-- A datapath register's value; reading one that holds none is a fault of the model (10_state.md R31). -/
def readReg {α : Type} (r : DpReg) : Option α → Except Fault α
  | some v => .ok v
  | none => .error (.undefinedRegister r)

end Sys2Proof.Machine
end

