-- ==== Sys2Proof/Machine/Transport.lean ====
section
/-! DEFINITION. The transport primitives (40_transport_primitives.md) and the frames (30_encoding.md R84). Each primitive
but `Delay` takes the answer of the fault oracle; one that is answered `fault` is appended to `TR` as failed and ends the
operation in progress (R117). -/

namespace Sys2Proof.Machine

open Host

/-! ### The effects a primitive is made of -/

/-- Driving an output line: one effect that can fail. -/
def driveEffect (line : Line) (level : Level) (s : State) : Attempt :=
  match s.faultNext with
  | false => ⟨true, s.takeAnswer.driveLine line level⟩
  | true => ⟨false, s.takeAnswer.driveFailed line level⟩

/-- The 8-bit transfer: one effect that can fail; the byte that comes back is discarded (R112). -/
def transferEffect (s : State) : Attempt := ⟨!s.faultNext, s.takeAnswer⟩

/-! ### The primitives -/

/-- `SetLine(line, level)` (R110). -/
def setLine (line : Line) (level : Level) (s : State) : Attempt :=
  let a := driveEffect line level s
  match a.ok with
  | true => ⟨true, a.st.record (.setLine line level .ok)⟩
  | false => ⟨false, a.st.record (.setLine line level .failed)⟩

/-- `ReadLine(BUSY)` (R111). The level read is `s.busy.level`; a failed read takes no answer of the BUSY oracle. -/
def readBusy (s : State) : Attempt :=
  match s.faultNext with
  | false => ⟨true, s.takeAnswer.takeSample.record (.readBusy (.level s.busy.level))⟩
  | true => ⟨false, s.takeAnswer.record (.readBusy .failed)⟩

/-- One of the four effects of a frame; a fault ends the frame there, marked with the effect that failed. -/
def frameEffect (kind : Kind) (value : Byte) (stage : TxStage) (effect : State → Attempt) (s : State) : Attempt :=
  let a := effect s
  match a.ok with
  | true => a
  | false => ⟨false, a.st.record (.tx kind value (.failedAt stage))⟩

/-- `TransmitByte(kind, value)`: select, chip-select active, transfer, chip-select inactive, and nothing between them (R112,
20_memory.md R63); one element of `TR` (10_state.md R38). -/
def transmitByte (kind : Kind) (value : Byte) (s : State) : Attempt :=
  (((frameEffect kind value .select (driveEffect .dc (kindLevel s.cfg kind)) s).andThen
    (frameEffect kind value .chipActive (driveEffect .cs s.cfg.csActiveLevel))).andThen
    (frameEffect kind value .transfer transferEffect)).andThen
    (frameEffect kind value .chipInactive (driveEffect .cs s.cfg.csActiveLevel.opposite)) |>.andThen
    fun s' => ⟨true, s'.record (.tx kind value .ok)⟩

/-- `Delay(ms)`: a mark in `TR`; it cannot fault (R114). -/
def delay (ms : Nat) (s : State) : Attempt := ⟨true, s.record (.delay ms)⟩

/-- `PulseReset(pattern)` (R113). -/
def pulseReset : List PulseEntry → State → Attempt
  | [], s => ⟨true, s⟩
  | (level, d) :: rest, s => ((setLine .rst level s).andThen (delay d)).andThen (pulseReset rest)

/-- `Cmd(c)` (R115). -/
def sendCommand (c : Byte) (s : State) : Attempt := transmitByte .command c s

/-- `Data(d)` (R115). -/
def sendData (d : Byte) (s : State) : Attempt := transmitByte .data d s

/-- `Data(d1); ..; Data(dn)` (R115). -/
def sendAll : List Byte → State → Attempt
  | [], s => ⟨true, s⟩
  | d :: rest, s => (sendData d s).andThen (sendAll rest)

/-! ### The refined trace -/

/-- A line-level effect (10_state.md R38, 92_eei_decisions.md D28). -/
inductive PinEvent where
  | drive (line : Line) (level : Level) (mark : Mark)
  | transfer (value : Byte) (mark : Mark)
  | sample (sample : Sample)
  | delay (ms : Nat)
  deriving DecidableEq, Repr

/-- The line-level effects an element of `TR` stands for (R112): all four of a frame, or those up to the one that failed. -/
def Event.pins (c : Config) : Event → List PinEvent
  | .setLine line level mark => [.drive line level mark]
  | .readBusy sample => [.sample sample]
  | .delay ms => [.delay ms]
  | .tx kind value .ok =>
    [.drive .dc (kindLevel c kind) .ok, .drive .cs c.csActiveLevel .ok, .transfer value .ok,
      .drive .cs c.csActiveLevel.opposite .ok]
  | .tx kind _ (.failedAt .select) => [.drive .dc (kindLevel c kind) .failed]
  | .tx kind _ (.failedAt .chipActive) => [.drive .dc (kindLevel c kind) .ok, .drive .cs c.csActiveLevel .failed]
  | .tx kind value (.failedAt .transfer) =>
    [.drive .dc (kindLevel c kind) .ok, .drive .cs c.csActiveLevel .ok, .transfer value .failed]
  | .tx kind value (.failedAt .chipInactive) =>
    [.drive .dc (kindLevel c kind) .ok, .drive .cs c.csActiveLevel .ok, .transfer value .ok,
      .drive .cs c.csActiveLevel.opposite .failed]

/-- The refined trace of a state. -/
def State.refinedTrace (s : State) : List PinEvent := s.tr.flatMap (Event.pins s.cfg)

/-- The serial order of a byte on the bus: bit 7 first (20_memory.md R56, T21). DPS hands the binding whole bytes; this is
what the binding must do with one. -/
def serialBits (value : Byte) : List Bool := (List.range 8).map fun n => value.getLsbD (7 - n)

/-! ### The meanings -/

/-- `SetLine`. -/
def execSetLine (line : Line) (level : Level) (s : State) : Outcome State Fault Refusal :=
  match line.isOutput with
  | true => .next (setLine line level s).settle
  | false => .refused .inputLineDriven

/-- `ReadLine`; the line is always `BUSY` (R111). -/
def execReadLine (line : Line) (s : State) : Outcome State Fault Refusal :=
  match line with
  | .busy => .next (readBusy s).settle
  | .dc => .refused .outputLineRead
  | .cs => .refused .outputLineRead
  | .rst => .refused .outputLineRead

/-- `TransmitByte`. -/
def execTransmitByte (kind : Kind) (value : Byte) (s : State) : Outcome State Fault Refusal :=
  .next (transmitByte kind value s).settle

/-- `PulseReset`, the whole pattern. -/
def execPulseReset (pattern : List PulseEntry) (s : State) : Outcome State Fault Refusal :=
  .next (pulseReset pattern s).settle

/-- `Delay`. -/
def execDelay (ms : Nat) (s : State) : Outcome State Fault Refusal :=
  .next (delay ms s).settle

/-- The command frame (30_encoding.md R84). -/
def execFrameCommand (value : Byte) (s : State) : Outcome State Fault Refusal :=
  .next (sendCommand value s).settle

/-- The data frame (30_encoding.md R84). -/
def execFrameData (value : Byte) (s : State) : Outcome State Fault Refusal :=
  .next (sendData value s).settle

end Sys2Proof.Machine
end

