-- ==== Sys2Proof/Machine/BusyWait.lean ====
section
/-! DEFINITION. Busy-wait synchronisation (42_busy_wait.md). The loop is cut at its samples: one round is one sample and what
follows it. PC holds a value exactly while a wait is in progress. -/

namespace Sys2Proof.Machine

open Host

/-- `PC <- 0`: a wait begins (R170). -/
def beginWait (s : State) : State := s.setDp { s.dp with pc := some 0 }

/-- The wait is over (R170, `return`). -/
def endWait (s : State) : State := s.setDp { s.dp with pc := none }

/-- `PC <- PC + 1` after a low sample, from the count `n` before it (R170). -/
def countLow (n : Nat) (s : State) : State := s.setDp { s.dp with pc := some (n + 1) }

/-- The n-th low sample of a wait ends it, where `BUSY_TIMEOUT_POLLS` is set (R175). -/
def pollsExhausted (c : Config) (n : Nat) : Bool :=
  match c.busyTimeoutPolls with
  | some limit => decide (n ≥ limit)
  | none => false

/-- One round of the loop of R170, with `n` low samples seen before it: a sample; if it is low, the count, then the timeout or
the interval. -/
def busyRound (n : Nat) (s : State) : State :=
  let a := readBusy s
  match a.ok, s.busy.level with
  | false, _ => a.st.raise .transportFault
  | true, .high => endWait a.st
  | true, .low =>
    match pollsExhausted s.cfg (n + 1) with
    | true => (countLow n a.st).raise .timeout
    | false => (countLow n a.st).record (.delay tPoll)

/-- `BusyWait`: one round. A wait that is in progress (PC holds a value) goes on, else one begins with `PC <- 0`; it is over
when PC holds no value again. A line that is low for ever keeps it in progress for ever (R174); log entry 13. -/
def execBusyWait (s : State) : Outcome State Fault Refusal :=
  match s.dp.pc with
  | some n => .next (busyRound n s)
  | none => .next (busyRound 0 (beginWait s))

end Sys2Proof.Machine
end

