-- ==== Sys2Proof/Machine/Flags.lean ====
section
/-! DEFINITION. The flags: STATUS is the only one (10_state.md R23), with LS read by the state check. Their numbers, the
table of the states each operation is valid in, and the output ports that show them. -/

namespace Sys2Proof.Machine

/-- The code of `LS` (10_state.md R22). -/
def Lifecycle.code : Lifecycle → BitVec 2
  | .unpowered => 0#2
  | .ready => 1#2
  | .sleeping => 2#2

/-- The code of `STATUS` (10_state.md R23, 60_exceptions.md R220). -/
def Status.code : Status → BitVec 3
  | .ok => 0#3
  | .invalidState => 1#3
  | .invalidBufferSize => 2#3
  | .transportFault => 3#3
  | .timeout => 4#3

/-- The state check: the states an operation is valid in (41_protocol_driver.md R131). -/
def Op.validIn : Op → Lifecycle → Bool
  | .reset, _ => true
  | .init, .unpowered => true
  | .init, .ready => true
  | .init, .sleeping => false
  | .clear, .unpowered => false
  | .clear, .ready => true
  | .clear, .sleeping => false
  | .display, .unpowered => false
  | .display, .ready => true
  | .display, .sleeping => false
  | .sleep, .unpowered => false
  | .sleep, .ready => true
  | .sleep, .sleeping => false
  | .convert, _ => true

/-- The output port `op_ready` (10_state.md R44). -/
def State.opReady (s : State) : Bool := !s.run

/-- The output port `op_status` (10_state.md R44). -/
def State.opStatus (s : State) : BitVec 3 := s.status.code

/-- The output port `ls_out` (10_state.md R44). -/
def State.lsOut (s : State) : BitVec 2 := s.ls.code

/-- The next step is a step of the operation in progress: the block is out of reset and RUN is 1. -/
def State.operating (s : State) : Bool := s.port.rstN && s.run

/-- The output port `buf_addr` (10_state.md R44): the address of the byte of `PBB` that the next step reads, at pair 0 of each
input byte of `Display` (20_memory.md R60). Where it reads none (pairs 1 to 3, the refresh and the wait, `Clear`, any other
operation, none, and while `rst_n` is low, where the next step is block reset) R44 states no value and the model gives none.
DESIGN CHOICE, safe (log entry 22). -/
def State.bufAddr (s : State) : Option Nat :=
  match s.operating, s.seq, s.dp.pp with
  | true, .pos .display .stream _, some 0 => s.dp.bi
  | _, _, _ => none

end Sys2Proof.Machine
end

