-- ==== Sys2Proof/Machine/ImageConverter.lean ====
section
/-! DEFINITION. The Image Converter (43_image_converter.md): the quantiser, the packing, and one pixel's step. -/

namespace Sys2Proof.Machine

/-- The squared distance to black (R183). -/
def distBlack (p : Rgb) : Nat := red p * red p + green p * green p + blue p * blue p

/-- The squared distance to white (R183). -/
def distWhite (p : Rgb) : Nat :=
  (255 - red p) * (255 - red p) + (255 - green p) * (255 - green p) + (255 - blue p) * (255 - blue p)

/-- Palette entry 0 (R183). -/
def paletteBlack : Rgb := 0x000000#24

/-- Palette entry 1 (R183). -/
def paletteWhite : Rgb := 0xFFFFFF#24

/-- The value R183 takes for `Quantize(r, g, b)`: true is palette index 1, white (D18). -/
def quantizeDefault (p : Rgb) : Bool := decide (distWhite p < distBlack p)

/-- `Quantize`, a parameter (R183, 10_state.md R21, U14): the default but for the colours the configuration flips; black and
white are kept whatever it holds, as R183 demands (log entry 11). -/
def quantize (c : Config) (p : Rgb) : Bool :=
  if p = paletteBlack then false
  else if p = paletteWhite then true
  else quantizeDefault p ^^ decide (p ∈ c.quantizeFlips)

/-- `bit(i, j)` for a width and a height and the pixels read from `IMG`: the pixel where it lies within, else the background,
white (R182). -/
def boundedBit (c : Config) (w h : Nat) (img : Image) (i j : Nat) : Bool :=
  match inBounds w h i j with
  | true => quantize c (img.pixel i j)
  | false => true

/-- `bit(i, j)` of an image (R182). -/
def pixelBit (c : Config) (img : Image) (i j : Nat) : Bool := boundedBit c img.w img.h img i j

/-- `bit(i, j)` of the `Convert` in progress: within the width and height its request stated (41_protocol_driver.md R130), the
pixel as `IMG` holds it now. The spec does not say what becomes of a host that changes the pixels while `Convert` runs (R181):
DESIGN CHOICE, unsafe for a claim about such a run (log entry 23). -/
def State.convertBit (s : State) (i j : Nat) : Bool := boundedBit s.cfg s.operands.w s.operands.h s.img i j

/-- `ACC <- ((ACC << 1) | v) mod 256` (10_state.md R29). -/
def accumulate (acc : Byte) (v : Bool) : Byte := (acc <<< 1) ||| (BitVec.ofBool v).setWidth 8

/-- `byte(g, j)`, the sum of `bit(8*g + n, j) * 2^(7-n)` over n in 0..7 (R184). -/
def packedByte (c : Config) (img : Image) (g j : Nat) : Byte :=
  BitVec.ofNat 8 (((List.range 8).map fun n => (pixelBit c img (8 * g + n) j).toNat * 2 ^ (7 - n)).sum)

/-- `CI`, `CJ` and `ACC` at the start of the loops (R186). -/
def beginConvert (s : State) : State := s.setDp { s.dp with ci := some 0, cj := some 0, acc := some 0#8 }

/-- After pixel (i, j) with ACC `acc`: the next pixel of the row, the first of the next row, or the end (R186). -/
def nextPixel (i j : Nat) (acc : Byte) (s : State) : State :=
  if i + 1 < panelW then
    (s.setDp { s.dp with ci := some (i + 1), acc := some acc }).goto .convert .pixel (panelW * j + i + 1)
  else if j + 1 < panelH then
    (s.setDp { s.dp with ci := some 0, cj := some (j + 1), acc := some 0#8 }).goto .convert .pixel (panelW * (j + 1))
  else
    (s.setDp { s.dp with acc := some acc }).goto .convert .done 0

/-- Pixel (i, j): its bit is added to ACC; at the end of every 8th column ACC is flushed into its byte of `PBB` and cleared
(R185, R186). An address that does not exist is a fault of the model (20_memory.md R64). The pixel is sampled at this step, not at
acceptance (DESIGN CHOICE of `State.convertBit`, log entry 23). -/
def pixelStep (i j : Nat) (acc : Byte) (s : State) : Except Fault State :=
  let acc' := accumulate acc (s.convertBit i j)
  if i % 8 = 7 then
    match pbbExists (pbbAddr i j) with
    | true => .ok (nextPixel i j 0#8 (s.writePbb (pbbAddr i j) acc'))
    | false => .error (.pbbAddress (pbbAddr i j))
  else .ok (nextPixel i j acc' s)

/-- The pixel the registers name; reading one that holds no value is a fault of the model (10_state.md R31). -/
def convertPixel (s : State) : Except Fault State :=
  match readReg .ci s.dp.ci, readReg .cj s.dp.cj, readReg .acc s.dp.acc with
  | .ok i, .ok j, .ok acc => pixelStep i j acc s
  | .error f, _, _ => .error f
  | .ok _, .error f, _ => .error f
  | .ok _, .ok _, .error f => .error f

/-- The pixel that the next step of `Convert` is at, with ACC; none at any other position, and none while `rst_n` is low, where
the next step is block reset (log entry 22). -/
def State.pixelAt (s : State) : Option (Nat × Nat × Byte) :=
  match s.operating, s.seq, s.dp.ci, s.dp.cj, s.dp.acc with
  | true, .pos .convert .pixel _, some i, some j, some acc => some (i, j, acc)
  | _, _, _, _, _ => none

/-- The output port `px_x` (10_state.md R44): the column of the pixel of `IMG` that the next step reads. Where it reads none (a
panel pixel outside the image, completion, any other operation, none, `rst_n` low) R44 states no value and the model gives none. DESIGN
CHOICE, safe (log entry 22). -/
def State.pxX (s : State) : Option Nat :=
  match s.pixelAt with
  | some (i, j, _) => if inBounds s.operands.w s.operands.h i j then some i else none
  | none => none

/-- The output port `px_y` (10_state.md R44): the row of that pixel, none where `px_x` is. DESIGN CHOICE, safe (log entry 22). -/
def State.pxY (s : State) : Option Nat :=
  match s.pixelAt with
  | some (i, j, _) => if inBounds s.operands.w s.operands.h i j then some j else none
  | none => none

/-- The output ports `cv_we`, `cv_addr`, `cv_wdata` (10_state.md R44): the address and the byte that the next step writes; none
where `cv_we` is 0, as while `rst_n` is low. What address and data show then R44 does not state, and the model gives no value: DESIGN CHOICE, safe
(log entry 22). -/
def State.cvWrite (s : State) : Option (Nat × Byte) :=
  match s.pixelAt with
  | some (i, j, acc) => if i % 8 = 7 then some (pbbAddr i j, accumulate acc (s.convertBit i j)) else none
  | none => none

end Sys2Proof.Machine
end

