-- ==== Sys2Proof/Machine/VendorCommands.lean ====
section
/-! DEFINITION. The vendor commands: each is one command frame whose byte is the parameter of its name (30_encoding.md R90,
R91; 40_transport_primitives.md R115). Their argument bytes are data frames of their own, sent by the operation that sends
the command (30_encoding.md R92). -/

namespace Sys2Proof.Machine

open Host

/-- `CMD_PANEL_SETTING`, sent by Init. -/
def execCmdPanelSetting (s : State) : Outcome State Fault Refusal :=
  .next (sendCommand s.cfg.codes.panelSetting s).settle

/-- `CMD_POWER_SETTING`, sent by Init. -/
def execCmdPowerSetting (s : State) : Outcome State Fault Refusal :=
  .next (sendCommand s.cfg.codes.powerSetting s).settle

/-- `CMD_POWER_OFF`, sent by Sleep. -/
def execCmdPowerOff (s : State) : Outcome State Fault Refusal :=
  .next (sendCommand s.cfg.codes.powerOff s).settle

/-- `CMD_POWER_ON`, sent by Init. -/
def execCmdPowerOn (s : State) : Outcome State Fault Refusal :=
  .next (sendCommand s.cfg.codes.powerOn s).settle

/-- `CMD_BOOSTER_SOFT_START`, sent by Init. -/
def execCmdBoosterSoftStart (s : State) : Outcome State Fault Refusal :=
  .next (sendCommand s.cfg.codes.boosterSoftStart s).settle

/-- `CMD_DEEP_SLEEP`, sent by Sleep. -/
def execCmdDeepSleep (s : State) : Outcome State Fault Refusal :=
  .next (sendCommand s.cfg.codes.deepSleep s).settle

/-- `CMD_DATA_START_TRANSMISSION`, sent by Clear and Display. -/
def execCmdDataStartTransmission (s : State) : Outcome State Fault Refusal :=
  .next (sendCommand s.cfg.codes.dataStartTransmission s).settle

/-- `CMD_DATA_STOP`, never sent by DPS (R91). -/
def execCmdDataStop (s : State) : Outcome State Fault Refusal :=
  .next (sendCommand s.cfg.codes.dataStop s).settle

/-- `CMD_DISPLAY_REFRESH`, sent by TurnOnDisplay. -/
def execCmdDisplayRefresh (s : State) : Outcome State Fault Refusal :=
  .next (sendCommand s.cfg.codes.displayRefresh s).settle

/-- `CMD_PLL_CONTROL`, sent by Init only if INIT_SEQ holds it. -/
def execCmdPllControl (s : State) : Outcome State Fault Refusal :=
  .next (sendCommand s.cfg.codes.pllControl s).settle

/-- `CMD_TEMPERATURE_CALIBRATION`, sent by Init only if INIT_SEQ holds it. -/
def execCmdTemperatureCalibration (s : State) : Outcome State Fault Refusal :=
  .next (sendCommand s.cfg.codes.temperatureCalibration s).settle

/-- `CMD_VCOM_AND_DATA_INTERVAL_SETTING`, sent by Init only if INIT_SEQ holds it. -/
def execCmdVcomAndDataIntervalSetting (s : State) : Outcome State Fault Refusal :=
  .next (sendCommand s.cfg.codes.vcomAndDataIntervalSetting s).settle

/-- `CMD_TCON_SETTING`, sent by Init only if INIT_SEQ holds it. -/
def execCmdTconSetting (s : State) : Outcome State Fault Refusal :=
  .next (sendCommand s.cfg.codes.tconSetting s).settle

/-- `CMD_TCON_RESOLUTION`, sent by Init. -/
def execCmdTconResolution (s : State) : Outcome State Fault Refusal :=
  .next (sendCommand s.cfg.codes.tconResolution s).settle

/-- `CMD_FLASH_CONTROL`, never sent by DPS (R91). -/
def execCmdFlashControl (s : State) : Outcome State Fault Refusal :=
  .next (sendCommand s.cfg.codes.flashControl s).settle

/-- `CMD_REVISION`, never sent by DPS (R91). -/
def execCmdRevision (s : State) : Outcome State Fault Refusal :=
  .next (sendCommand s.cfg.codes.revision s).settle

/-- `CMD_GET_STATUS`, never sent by DPS (R91). -/
def execCmdGetStatus (s : State) : Outcome State Fault Refusal :=
  .next (sendCommand s.cfg.codes.getStatus s).settle

/-- `CMD_VCOM_AUTO_MEASURE`, never sent by DPS (R91). -/
def execCmdVcomAutoMeasure (s : State) : Outcome State Fault Refusal :=
  .next (sendCommand s.cfg.codes.vcomAutoMeasure s).settle

/-- `CMD_VCOM_READ`, never sent by DPS (R91). -/
def execCmdVcomRead (s : State) : Outcome State Fault Refusal :=
  .next (sendCommand s.cfg.codes.vcomRead s).settle

/-- `CMD_VCM_DC_SETTING`, sent by Init. -/
def execCmdVcmDcSetting (s : State) : Outcome State Fault Refusal :=
  .next (sendCommand s.cfg.codes.vcmDcSetting s).settle

/-- `CMD_FLASH_MODE`, sent by Init only if INIT_SEQ holds it. -/
def execCmdFlashMode (s : State) : Outcome State Fault Refusal :=
  .next (sendCommand s.cfg.codes.flashMode s).settle

/-- `CMD_LUT_*`, a family of ten, never sent by DPS (R91); an index outside the family is no command. -/
def execCmdLut (index : Nat) (s : State) : Outcome State Fault Refusal :=
  match s.cfg.codes.lut[index]? with
  | some b => .next (sendCommand b s).settle
  | none => .refused .noSuchLutCommand

end Sys2Proof.Machine
end

