-- ==== Sys2Proof/Machine/WireEncoder.lean ====
section
/-! DEFINITION. The Wire Encoder (44_wire_encoder.md), the pixel codes (30_encoding.md R89), and the wire data bytes. The
double inversion of R203 is kept as the source words it: the bits tested are those of INV. -/

namespace Sys2Proof.Machine

open Host

/-- The nibble for a bit of `~b`: 0x0 if set, 0x3 if clear (R201). -/
def nibbleOfInv (bit : Bool) : BitVec 4 :=
  match bit with
  | true => 0x0#4
  | false => 0x3#4

/-- `(first << 4) | second` (20_memory.md R54). -/
def combineNibbles (first second : BitVec 4) : Byte := (first.setWidth 8 <<< 4) ||| second.setWidth 8

/-- The output byte of pair `pp`, from the bits 7 - 2*pp and 6 - 2*pp of INV (R201). -/
def wireByte (inv : Byte) (pp : Nat) : Byte :=
  combineNibbles (nibbleOfInv (inv.getLsbD (7 - 2 * pp))) (nibbleOfInv (inv.getLsbD (7 - 2 * pp - 1)))

/-- `expandByteToNibblePairs(b)`: the four output bytes in order (R201). -/
def expandPairs (b : Byte) : List Byte := (List.range 4).map (wireByte (~~~b))

/-- The pixel code of a `PBB` bit (30_encoding.md R89). -/
def pixelCode (white : Bool) : BitVec 4 :=
  match white with
  | true => 0x3#4
  | false => 0x0#4

/-- The byte that four wire bytes came from: bits 4 and 0 of each (R209). -/
def packFromWire (o0 o1 o2 o3 : Byte) : Byte :=
  BitVec.ofBool (o0.getLsbD 4) ++ BitVec.ofBool (o0.getLsbD 0) ++ BitVec.ofBool (o1.getLsbD 4) ++
    BitVec.ofBool (o1.getLsbD 0) ++ BitVec.ofBool (o2.getLsbD 4) ++ BitVec.ofBool (o2.getLsbD 0) ++
    BitVec.ofBool (o3.getLsbD 4) ++ BitVec.ofBool (o3.getLsbD 0)

/-- The wire stream of the `n` buffer bytes from address `a` on, in ascending order (R200, R205). -/
def wireStream (m : List Host.Cell) : Nat → Nat → List Byte
  | 0, _ => []
  | n + 1, a => expandPairs (pbbByte m a) ++ wireStream m n (a + 1)

/-- `E(buffer)` (R200). -/
def encodeBuffer (m : List Host.Cell) : List Byte := wireStream m bufSz 0

/-- `PP <- pp`. -/
def setPair (pp : Nat) (s : State) : State := s.setDp { s.dp with pp := some pp }

/-- `INV <- ~b`, the Wire Encoder takes the input byte `b` (10_state.md R30). -/
def loadInv (b : Byte) (s : State) : State := s.setDp { s.dp with inv := some (~~~b) }

/-- The pairs `pp`, `pp + 1`, .. of INV, `n` of them, each handed to `Data` as soon as it is made (R200). -/
def sendPairs (inv : Byte) : Nat → Nat → State → Attempt
  | 0, _, s => ⟨true, s⟩
  | n + 1, pp, s => (sendData (wireByte inv pp) (setPair pp s)).andThen (sendPairs inv n (pp + 1))

/-- One input byte: INV is loaded and its four pairs are emitted (R201). -/
def sendByte (b : Byte) (s : State) : Attempt := sendPairs (~~~b) 4 0 (loadInv b s)

/-- The input bytes from address `a` on, `n` of them (R205). -/
def sendBuffer : Nat → Nat → State → Attempt
  | 0, _, s => ⟨true, s⟩
  | n + 1, a, s =>
    (sendByte (pbbByte s.pbb a) (s.setDp { s.dp with bi := some a })).andThen (sendBuffer n (a + 1))

/-- `expandByteToNibblePairs`: the four bytes, emitted (R201, "emit the byte"); log entry 13. -/
def execExpandByteToNibblePairs (b : Byte) (s : State) : Outcome State Fault Refusal :=
  .next (sendByte b s).settle

/-- `Encode` of the buffer in `PBB` (R200); log entry 13. -/
def execEncode (s : State) : Outcome State Fault Refusal :=
  .next (sendBuffer bufSz 0 s).settle

/-- `WIRE_00`: black, black. -/
def execWire00 (s : State) : Outcome State Fault Refusal :=
  .next (sendData (combineNibbles (pixelCode false) (pixelCode false)) s).settle

/-- `WIRE_03`: black, white. -/
def execWire03 (s : State) : Outcome State Fault Refusal :=
  .next (sendData (combineNibbles (pixelCode false) (pixelCode true)) s).settle

/-- `WIRE_30`: white, black. -/
def execWire30 (s : State) : Outcome State Fault Refusal :=
  .next (sendData (combineNibbles (pixelCode true) (pixelCode false)) s).settle

/-- `WIRE_33`: white, white; also the payload byte of `Clear` (41_protocol_driver.md R134). -/
def execWire33 (s : State) : Outcome State Fault Refusal :=
  .next (sendData (combineNibbles (pixelCode true) (pixelCode true)) s).settle

end Sys2Proof.Machine
end

