-- ==== Sys2Proof/Machine/ProtocolDriver.lean ====
section
/-! DEFINITION. The host operations (41_protocol_driver.md) and `TurnOnDisplay`. A host operation runs over many steps: it
is accepted (R130), its checks are made (R131), its primitives are sent one a step (Sequencer.lean), it completes (R141).
The meaning of its instruction is the part of this that is no primitive: acceptance while RUN = 0, a check, a pixel of
`Convert`, completion. A request that is met while another operation runs is held off: nothing changes. -/

namespace Sys2Proof.Machine

open Host

/-- The instruction of an operation. -/
def Op.instr : Op → Instr
  | .reset => .reset
  | .init => .init
  | .clear => .clear
  | .display => .display
  | .sleep => .sleep
  | .convert => .convert

/-- The op_code of an operation (30_encoding.md R82). -/
def Op.code : Op → BitVec 3
  | .reset => 0#3
  | .init => 1#3
  | .clear => 2#3
  | .display => 3#3
  | .sleep => 4#3
  | .convert => 5#3

/-- The first phase of an operation (R130): `Reset` and `Convert` have no check. -/
def Op.firstPhase : Op → Phase
  | .reset => .pulse
  | .init => .check
  | .clear => .check
  | .display => .check
  | .sleep => .check
  | .convert => .pixel

/-- The first phase after the checks. -/
def Op.bodyPhase : Op → Phase
  | .reset => .pulse
  | .init => .pulse
  | .clear => .startCmd
  | .display => .startCmd
  | .sleep => .powerOffCmd
  | .convert => .pixel

/-- The operands at the ports (10_state.md R44). -/
def State.offeredOperands (s : State) : Operands := ⟨s.port.bufLen, s.img.w, s.img.h⟩

/-- Acceptance: RUN set, SEQ at the operation's first phase, the operands taken with the request, which leaves the port (R130;
log entries 6, 23). -/
def accept (op : Op) (s : State) : State :=
  { s with
    run := true, seq := .pos op op.firstPhase 0, operands := s.offeredOperands,
    port := { s.port with opValid := false } }

/-- The state check (R131). -/
def stateCheck (op : Op) (next : State → State) (s : State) : State :=
  match op.validIn s.ls with
  | true => next s
  | false => s.raise .invalidState

/-- The length check of `Display`, on the length stated with its request (R135, 60_exceptions.md R222; 10_state.md R35). -/
def lengthCheck (next : State → State) (s : State) : State :=
  match bufLenOk s.operands.len with
  | true => next s
  | false => s.raise .invalidBufferSize

/-- The steps of an operation's instruction: acceptance while no operation runs; its check; its completion with `OK`; held
off, with nothing changed, at any other position. -/
def operate (op : Op) (check : Nat → State → State) (s : State) : State :=
  match s.run with
  | false => accept op s
  | true =>
    match s.seq with
    | .pos o .check k => if o = op then check k s else s
    | .pos o .done _ => if o = op then s.finish .ok else s
    | _ => s

/-- `Reset` (R132): no check. -/
def execReset (s : State) : Outcome State Fault Refusal :=
  .next (operate .reset (fun _ => id) s)

/-- `Init` (R133). -/
def execInit (s : State) : Outcome State Fault Refusal :=
  .next (operate .init (fun _ => stateCheck .init (State.goto .init .pulse 0)) s)

/-- `Clear` (R134). -/
def execClear (s : State) : Outcome State Fault Refusal :=
  .next (operate .clear (fun _ => stateCheck .clear (State.goto .clear .startCmd 0)) s)

/-- The two checks of `Display`, in their order (R135, 60_exceptions.md R229). -/
def displayCheck : Nat → State → State
  | 0 => stateCheck .display (State.goto .display .check 1)
  | _ + 1 => lengthCheck (State.goto .display .startCmd 0)

/-- `Display` (R135). -/
def execDisplay (s : State) : Outcome State Fault Refusal :=
  .next (operate .display displayCheck s)

/-- `Sleep` (R137). -/
def execSleep (s : State) : Outcome State Fault Refusal :=
  .next (operate .sleep (fun _ => stateCheck .sleep (State.goto .sleep .powerOffCmd 0)) s)

/-- `Convert` (43_image_converter.md R180, R186): on acceptance the loops start; one pixel a step. -/
def execConvert (s : State) : Outcome State Fault Refusal :=
  match s.run, s.seq with
  | false, _ => .next (beginConvert (accept .convert s))
  | true, .pos .convert .pixel _ =>
    match convertPixel s with
    | .ok s' => .next s'
    | .error f => .fault f
  | true, _ => .next (operate .convert (fun _ => id) s)

/-- Op code 110: refused at the port, nothing changes (30_encoding.md R83). -/
def execReserved110 (s : State) : Outcome State Fault Refusal := .next s

/-- Op code 111: refused at the port, nothing changes (30_encoding.md R83). -/
def execReserved111 (s : State) : Outcome State Fault Refusal := .next s

/-- `TurnOnDisplay` (R136): the refresh command, the delay, and the first round of the busy-wait, which `BusyWait` goes on
with where the panel is busy; log entry 13. -/
def execTurnOnDisplay (s : State) : Outcome State Fault Refusal :=
  let a := (sendCommand s.cfg.codes.displayRefresh s).andThen (delay s.cfg.tRefreshDelay)
  match a.ok with
  | true => .next (busyRound 0 (beginWait a.st))
  | false => .next a.settle

end Sys2Proof.Machine
end

