-- ==== Sys2Proof/Machine/Dispatch.lean ====
section
/-! DEFINITION. One arm per constructor of Instr. -/

namespace Sys2Proof.Machine

open Host

def exec (i : Instr) (s : State) : Host.Outcome State Fault Refusal :=
  match i with
  | .reset => Sys2Proof.Machine.execReset s
  | .init => Sys2Proof.Machine.execInit s
  | .clear => Sys2Proof.Machine.execClear s
  | .display => Sys2Proof.Machine.execDisplay s
  | .sleep => Sys2Proof.Machine.execSleep s
  | .convert => Sys2Proof.Machine.execConvert s
  | .reserved110 => Sys2Proof.Machine.execReserved110 s
  | .reserved111 => Sys2Proof.Machine.execReserved111 s
  | .turnOnDisplay => Sys2Proof.Machine.execTurnOnDisplay s
  | .busyWait => Sys2Proof.Machine.execBusyWait s
  | .encode => Sys2Proof.Machine.execEncode s
  | .expandByteToNibblePairs b => Sys2Proof.Machine.execExpandByteToNibblePairs b s
  | .setLine line level => Sys2Proof.Machine.execSetLine line level s
  | .readLine line => Sys2Proof.Machine.execReadLine line s
  | .transmitByte kind value => Sys2Proof.Machine.execTransmitByte kind value s
  | .pulseReset pattern => Sys2Proof.Machine.execPulseReset pattern s
  | .delay ms => Sys2Proof.Machine.execDelay ms s
  | .frameCommand value => Sys2Proof.Machine.execFrameCommand value s
  | .frameData value => Sys2Proof.Machine.execFrameData value s
  | .cmdPanelSetting => Sys2Proof.Machine.execCmdPanelSetting s
  | .cmdPowerSetting => Sys2Proof.Machine.execCmdPowerSetting s
  | .cmdPowerOff => Sys2Proof.Machine.execCmdPowerOff s
  | .cmdPowerOn => Sys2Proof.Machine.execCmdPowerOn s
  | .cmdBoosterSoftStart => Sys2Proof.Machine.execCmdBoosterSoftStart s
  | .cmdDeepSleep => Sys2Proof.Machine.execCmdDeepSleep s
  | .cmdDataStartTransmission => Sys2Proof.Machine.execCmdDataStartTransmission s
  | .cmdDataStop => Sys2Proof.Machine.execCmdDataStop s
  | .cmdDisplayRefresh => Sys2Proof.Machine.execCmdDisplayRefresh s
  | .cmdPllControl => Sys2Proof.Machine.execCmdPllControl s
  | .cmdTemperatureCalibration => Sys2Proof.Machine.execCmdTemperatureCalibration s
  | .cmdVcomAndDataIntervalSetting => Sys2Proof.Machine.execCmdVcomAndDataIntervalSetting s
  | .cmdTconSetting => Sys2Proof.Machine.execCmdTconSetting s
  | .cmdTconResolution => Sys2Proof.Machine.execCmdTconResolution s
  | .cmdFlashControl => Sys2Proof.Machine.execCmdFlashControl s
  | .cmdRevision => Sys2Proof.Machine.execCmdRevision s
  | .cmdGetStatus => Sys2Proof.Machine.execCmdGetStatus s
  | .cmdVcomAutoMeasure => Sys2Proof.Machine.execCmdVcomAutoMeasure s
  | .cmdVcomRead => Sys2Proof.Machine.execCmdVcomRead s
  | .cmdVcmDcSetting => Sys2Proof.Machine.execCmdVcmDcSetting s
  | .cmdFlashMode => Sys2Proof.Machine.execCmdFlashMode s
  | .cmdLut index => Sys2Proof.Machine.execCmdLut index s
  | .wire00 => Sys2Proof.Machine.execWire00 s
  | .wire03 => Sys2Proof.Machine.execWire03 s
  | .wire30 => Sys2Proof.Machine.execWire30 s
  | .wire33 => Sys2Proof.Machine.execWire33 s

end Sys2Proof.Machine
end

