-- ==== Sys2Proof/Decode.lean ====
section
/-! DEFINITION. Reading the three encodings of DPS: the host request `OPREQ` (30_encoding.md R82), the frame `FRAME` (R84)
and the wire byte `WIRE` (R89); then the encoder for them. DPS itself decodes one of them only, the op_code at its port; the
other two are what it emits. Rows of the table without an encoding have no word. -/

namespace Sys2Proof

/-- The formats that have words (30_encoding.md R80). -/
inductive Format where
  | opreq
  | frame
  | wire
  deriving DecidableEq, Repr

/-- Why bytes are no instruction. -/
inductive DecodeError where
  /-- Fewer bytes than the format has. -/
  | tooShort
  /-- A bit above the field the format defines is set. -/
  | bitsAboveTheFormat
  /-- A byte that holds a nibble other than 0x0 and 0x3 (30_encoding.md R89: never emitted). -/
  | notAWireByte
  deriving DecidableEq, Repr

/-- The operation named by a 3-bit op_code (30_encoding.md R82, R83). -/
def decodeOpCode (code : BitVec 3) : Instr :=
  match code.toNat with
  | 0 => .reset
  | 1 => .init
  | 2 => .clear
  | 3 => .display
  | 4 => .sleep
  | 5 => .convert
  | 6 => .reserved110
  | _ => .reserved111

/-- The frame whose kind is bit 8 (0 command, 1 data) and whose value is bits 7:0 (30_encoding.md R84). -/
def decodeFrame (word : BitVec 9) : Instr :=
  if word.getLsbD 8 then .frameData (word.extractLsb' 0 8) else .frameCommand (word.extractLsb' 0 8)

/-- The wire data byte, where both nibbles are pixel codes (30_encoding.md R88, R89). -/
def decodeWire (b : Byte) : Except DecodeError Instr :=
  match b.toNat with
  | 0x00 => .ok .wire00
  | 0x03 => .ok .wire03
  | 0x30 => .ok .wire30
  | 0x33 => .ok .wire33
  | _ => .error .notAWireByte

/-- The instruction at the head of a list of bytes, and the bytes after it. An op_code lies in bits 2:0 of one byte; a frame
in two bytes, the value first, the kind in bit 0 of the second (log entry 15). -/
def decode (format : Format) (bytes : List Byte) : Except DecodeError (Instr × List Byte) :=
  match format, bytes with
  | .opreq, b :: rest =>
    if b.toNat < 8 then .ok (decodeOpCode (b.extractLsb' 0 3), rest) else .error .bitsAboveTheFormat
  | .frame, lo :: hi :: rest =>
    if hi.toNat < 2 then .ok (decodeFrame (hi.extractLsb' 0 1 ++ lo), rest) else .error .bitsAboveTheFormat
  | .wire, b :: rest =>
    match decodeWire b with
    | .ok i => .ok (i, rest)
    | .error e => .error e
  | _, _ => .error .tooShort

/-- The byte of a vendor command under the parameters `CMD_*` (30_encoding.md R90); none for the other rows. -/
def vendorByte (c : CommandCodes) : Instr → Option Byte
  | .cmdPanelSetting => some c.panelSetting
  | .cmdPowerSetting => some c.powerSetting
  | .cmdPowerOff => some c.powerOff
  | .cmdPowerOn => some c.powerOn
  | .cmdBoosterSoftStart => some c.boosterSoftStart
  | .cmdDeepSleep => some c.deepSleep
  | .cmdDataStartTransmission => some c.dataStartTransmission
  | .cmdDataStop => some c.dataStop
  | .cmdDisplayRefresh => some c.displayRefresh
  | .cmdPllControl => some c.pllControl
  | .cmdTemperatureCalibration => some c.temperatureCalibration
  | .cmdVcomAndDataIntervalSetting => some c.vcomAndDataIntervalSetting
  | .cmdTconSetting => some c.tconSetting
  | .cmdTconResolution => some c.tconResolution
  | .cmdFlashControl => some c.flashControl
  | .cmdRevision => some c.revision
  | .cmdGetStatus => some c.getStatus
  | .cmdVcomAutoMeasure => some c.vcomAutoMeasure
  | .cmdVcomRead => some c.vcomRead
  | .cmdVcmDcSetting => some c.vcmDcSetting
  | .cmdFlashMode => some c.flashMode
  | .cmdLut index => c.lut[index]?
  | .reset => none
  | .init => none
  | .clear => none
  | .display => none
  | .sleep => none
  | .convert => none
  | .reserved110 => none
  | .reserved111 => none
  | .turnOnDisplay => none
  | .busyWait => none
  | .encode => none
  | .expandByteToNibblePairs _ => none
  | .setLine _ _ => none
  | .readLine _ => none
  | .transmitByte _ _ => none
  | .pulseReset _ => none
  | .delay _ => none
  | .frameCommand _ => none
  | .frameData _ => none
  | .wire00 => none
  | .wire03 => none
  | .wire30 => none
  | .wire33 => none

/-- A vendor command's word: a command frame, `0cccccccc`. -/
def commandWord (c : CommandCodes) (i : Instr) : Option (Format × List Byte) :=
  (vendorByte c i).map fun b => (.frame, [b, 0x00#8])

/-- The word of an instruction; none for a row the table gives no encoding. -/
def encode (c : CommandCodes) : Instr → Option (Format × List Byte)
  | .reset => some (.opreq, [0#8])
  | .init => some (.opreq, [1#8])
  | .clear => some (.opreq, [2#8])
  | .display => some (.opreq, [3#8])
  | .sleep => some (.opreq, [4#8])
  | .convert => some (.opreq, [5#8])
  | .reserved110 => some (.opreq, [6#8])
  | .reserved111 => some (.opreq, [7#8])
  | .turnOnDisplay => none
  | .busyWait => none
  | .encode => none
  | .expandByteToNibblePairs _ => none
  | .setLine _ _ => none
  | .readLine _ => none
  | .transmitByte _ _ => none
  | .pulseReset _ => none
  | .delay _ => none
  | .frameCommand value => some (.frame, [value, 0x00#8])
  | .frameData value => some (.frame, [value, 0x01#8])
  | .cmdPanelSetting => commandWord c .cmdPanelSetting
  | .cmdPowerSetting => commandWord c .cmdPowerSetting
  | .cmdPowerOff => commandWord c .cmdPowerOff
  | .cmdPowerOn => commandWord c .cmdPowerOn
  | .cmdBoosterSoftStart => commandWord c .cmdBoosterSoftStart
  | .cmdDeepSleep => commandWord c .cmdDeepSleep
  | .cmdDataStartTransmission => commandWord c .cmdDataStartTransmission
  | .cmdDataStop => commandWord c .cmdDataStop
  | .cmdDisplayRefresh => commandWord c .cmdDisplayRefresh
  | .cmdPllControl => commandWord c .cmdPllControl
  | .cmdTemperatureCalibration => commandWord c .cmdTemperatureCalibration
  | .cmdVcomAndDataIntervalSetting => commandWord c .cmdVcomAndDataIntervalSetting
  | .cmdTconSetting => commandWord c .cmdTconSetting
  | .cmdTconResolution => commandWord c .cmdTconResolution
  | .cmdFlashControl => commandWord c .cmdFlashControl
  | .cmdRevision => commandWord c .cmdRevision
  | .cmdGetStatus => commandWord c .cmdGetStatus
  | .cmdVcomAutoMeasure => commandWord c .cmdVcomAutoMeasure
  | .cmdVcomRead => commandWord c .cmdVcomRead
  | .cmdVcmDcSetting => commandWord c .cmdVcmDcSetting
  | .cmdFlashMode => commandWord c .cmdFlashMode
  | .cmdLut index => commandWord c (.cmdLut index)
  | .wire00 => some (.wire, [0x00#8])
  | .wire03 => some (.wire, [0x03#8])
  | .wire30 => some (.wire, [0x30#8])
  | .wire33 => some (.wire, [0x33#8])

/-- The instruction a word stands for: a vendor command's word is the command frame of its byte, every other instruction that
has a word is its own. -/
def wordMeaning (c : CommandCodes) (i : Instr) : Instr :=
  match vendorByte c i with
  | some b => .frameCommand b
  | none => i

/-- The instruction of a decoding that succeeded. -/
def decodedInstr : Except DecodeError (Instr × List Byte) → Option Instr
  | .ok (i, _) => some i
  | .error _ => none

/-- A word of at most 8 bits, or one of the two 16-bit words the reader's table gives `Clear` and `Display` (whose rows carry
a field at bit 10 and bit 11 that the spec does not have), read as a request. -/
def requestOfTableWord (nbits w : Nat) : Option Instr :=
  if nbits ≤ 8 then
    if w < 8 then some (decodeOpCode (BitVec.ofNat 3 w)) else none
  else if w = 2 ∨ w = 0x402 then some .clear
  else if w = 3 ∨ w = 0x803 then some .display
  else none

/-- The instruction read from a table word. The table's formats overlap (0x00 is `Reset` and `WIRE_00`, 0x03 is `Display`
and `WIRE_03`), and nothing in the word says which is meant: a word that is a request is read as the request, since the port
is the only place where DPS decodes (log entry 15). -/
def decodeTableWord (nbits w : Nat) : Option Instr :=
  match requestOfTableWord nbits w with
  | some i => some i
  | none =>
    if nbits ≤ 8 then
      if w < 256 then decodedInstr (decode .wire [BitVec.ofNat 8 w]) else none
    else if w < 65536 then
      decodedInstr (decode .frame [BitVec.ofNat 8 w, BitVec.ofNat 8 (w / 256)])
    else none

end Sys2Proof
end

