-- ==== Sys2Proof/Machine/Sequencer.lean ====
section
/-! DEFINITION. The sequencer (10_state.md R27): which instruction a position of the operation in progress performs, and the
position after it. Together the two tables are the pseudocode of rules R132 to R137, R170, R186 and R201. -/

namespace Sys2Proof.Machine

open Host

/-- The phases an operation has (10_state.md R27, the pseudocode of R132 to R137 and R186). -/
def Op.hasPhase : Op → Phase → Bool
  | .reset, ph => ph == .pulse || ph == .done
  | .init, ph =>
    ph == .check || ph == .pulse || ph == .initCmd || ph == .initArg || ph == .poll || ph == .pollDelay || ph == .done
  | .clear, ph =>
    ph == .check || ph == .startCmd || ph == .stream || ph == .refreshCmd || ph == .refreshDelay || ph == .poll ||
      ph == .pollDelay || ph == .done
  | .display, ph =>
    ph == .check || ph == .startCmd || ph == .stream || ph == .refreshCmd || ph == .refreshDelay || ph == .poll ||
      ph == .pollDelay || ph == .done
  | .sleep, ph =>
    ph == .check || ph == .powerOffCmd || ph == .poll || ph == .pollDelay || ph == .deepSleepCmd ||
      ph == .deepSleepArg || ph == .done
  | .convert, ph => ph == .pixel || ph == .done

/-! ### The instruction at a position -/

/-- Primitive `k` of `PulseReset` with the reset pattern (40_transport_primitives.md R113). -/
def pulsePrimitive (k : Nat) : Except Fault Instr :=
  match resetPattern[k / 2]? with
  | some (level, d) => .ok (if k % 2 = 0 then .setLine .rst level else .delay d)
  | none => .error .noSuchPosition

/-- The current step of `INIT_SEQ`. -/
def currentInitStep (s : State) : Except Fault InitStep :=
  match readReg .si s.dp.si with
  | .ok si =>
    match s.cfg.initSeq[si]? with
    | some st => .ok st
    | none => .error .noSuchPosition
  | .error f => .error f

/-- `Cmd(cmd)` of the current step (41_protocol_driver.md R133). -/
def initCommand (s : State) : Except Fault Instr :=
  match currentInitStep s with
  | .ok st => .ok (.frameCommand st.cmd)
  | .error f => .error f

/-- `Data(a)` for argument AI of the current step. -/
def initArgument (s : State) : Except Fault Instr :=
  match currentInitStep s, readReg .ai s.dp.ai with
  | .ok st, .ok ai =>
    match st.args[ai]? with
    | some a => .ok (.frameData a)
    | none => .error .noSuchPosition
  | .error f, _ => .error f
  | .ok _, .error f => .error f

/-- INV as the current pair needs it: loaded from `PBB` when the input byte is taken, at pair 0, else as it stands
(10_state.md R30, 20_memory.md R60). -/
def loadWhenTaken (bi pp : Nat) (s : State) : Except Fault State :=
  match pp with
  | 0 =>
    match pbbExists bi with
    | true => .ok (loadInv (pbbByte s.pbb bi) s)
    | false => .error (.pbbAddress bi)
  | _ + 1 => .ok s

/-- The wire byte of the current pair of `Display` (44_wire_encoder.md R201), with INV loaded. -/
def displayPair (s : State) : Except Fault (Instr × State) :=
  match readReg .bi s.dp.bi, readReg .pp s.dp.pp with
  | .ok bi, .ok pp =>
    match loadWhenTaken bi pp s with
    | .ok s' =>
      match readReg .inv s'.dp.inv with
      | .ok inv =>
        match decodeWire (wireByte inv pp) with
        | .ok i => .ok (i, s')
        | .error _ => .error .noSuchPosition
      | .error f => .error f
    | .error f => .error f
  | .error f, _ => .error f
  | .ok _, .error f => .error f

/-- The instruction with the state unchanged. -/
def inState (s : State) : Except Fault Instr → Except Fault (Instr × State)
  | .ok i => .ok (i, s)
  | .error f => .error f

/-- The instruction of a phase, and the state with what reading it loads (INV, in `Display` only). -/
def fetchPhase (op : Op) (ph : Phase) (k : Nat) (s : State) : Except Fault (Instr × State) :=
  match ph with
  | .check => .ok (op.instr, s)
  | .pulse => inState s (pulsePrimitive k)
  | .initCmd => inState s (initCommand s)
  | .initArg => inState s (initArgument s)
  | .startCmd => .ok (.cmdDataStartTransmission, s)
  | .stream => if op = .display then displayPair s else .ok (.wire33, s)
  | .refreshCmd => .ok (.cmdDisplayRefresh, s)
  | .refreshDelay => .ok (.delay s.cfg.tRefreshDelay, s)
  | .poll => .ok (.readLine .busy, s)
  | .pollDelay => .ok (.delay tPoll, s)
  | .powerOffCmd => .ok (.cmdPowerOff, s)
  | .deepSleepCmd => .ok (.cmdDeepSleep, s)
  | .deepSleepArg => .ok (.frameData s.cfg.argDeepSleep, s)
  | .pixel => .ok (op.instr, s)
  | .done => .ok (op.instr, s)

/-- The instruction at SEQ. -/
def fetch (s : State) : Except Fault (Instr × State) :=
  match s.seq with
  | .idle => .error .noSuchPosition
  | .pos op ph k =>
    match op.hasPhase ph with
    | true => fetchPhase op ph k s
    | false => .error .noSuchPosition

/-! ### The position after a primitive -/

/-- Step `si` of `INIT_SEQ`, or, after the last, LS Ready and completion (R133, R139). -/
def enterInitStep (si : Nat) (s : State) : State :=
  if si < s.cfg.initSeq.length then (s.setDp { s.dp with si := some si }).goto .init .initCmd si
  else (s.setLs .ready).goto .init .done 0

/-- A busy-wait of `op` begins (42_busy_wait.md R170). -/
def enterWait (op : Op) (s : State) : State := (beginWait s).goto op .poll 0

/-- After the command and the arguments of a step: its wait, or the next step (30_encoding.md R92). -/
def afterInitFrames (st : InitStep) (si : Nat) (s : State) : State :=
  match st.wait with
  | true => enterWait .init s
  | false => enterInitStep (si + 1) s

/-- After the reset pulse LS is Unpowered (R139); `Init` goes on to `INIT_SEQ`, `Reset` completes. -/
def afterPulse (op : Op) (s : State) : State :=
  if op = .init then enterInitStep 0 (s.setLs .unpowered) else (s.setLs .unpowered).goto op .done 0

/-- The primitive after primitive `k` of the pulse. -/
def advancePulse (op : Op) (k : Nat) (s : State) : State :=
  if k + 1 < 2 * resetPattern.length then s.goto op .pulse (k + 1) else afterPulse op s

/-- After the command frame of a step: its first argument, if it has one. -/
def advanceInitCmd (s : State) : Except Fault State :=
  match readReg .si s.dp.si, currentInitStep s with
  | .ok si, .ok st =>
    if 0 < st.args.length then .ok ((s.setDp { s.dp with ai := some 0 }).goto .init .initArg 0)
    else .ok (afterInitFrames st si s)
  | .error f, _ => .error f
  | .ok _, .error f => .error f

/-- After an argument frame: the next argument, if there is one. -/
def advanceInitArg (s : State) : Except Fault State :=
  match readReg .si s.dp.si, currentInitStep s, readReg .ai s.dp.ai with
  | .ok si, .ok st, .ok ai =>
    if ai + 1 < st.args.length then .ok ((s.setDp { s.dp with ai := some (ai + 1) }).goto .init .initArg (ai + 1))
    else .ok (afterInitFrames st si s)
  | .error f, _, _ => .error f
  | .ok _, .error f, _ => .error f
  | .ok _, .ok _, .error f => .error f

/-- The loops over BI and PP start (R134, R135). -/
def enterStream (op : Op) (s : State) : State := (s.setDp { s.dp with bi := some 0, pp := some 0 }).goto op .stream 0

/-- After data byte `4*bi + pp` of the wire frame: the next pair, the next input byte, or the refresh (R134, R135). -/
def advanceStream (op : Op) (k : Nat) (s : State) : Except Fault State :=
  match readReg .bi s.dp.bi, readReg .pp s.dp.pp with
  | .ok bi, .ok pp =>
    if pp < 3 then .ok ((s.setDp { s.dp with pp := some (pp + 1) }).goto op .stream (k + 1))
    else if bi + 1 < bufSz then .ok ((s.setDp { s.dp with bi := some (bi + 1), pp := some 0 }).goto op .stream (k + 1))
    else .ok (s.goto op .refreshCmd 0)
  | .error f, _ => .error f
  | .ok _, .error f => .error f

/-- After a wait that ended: the next step of `INIT_SEQ` in `Init`, the deep-sleep command in `Sleep`, completion in `Clear`
and `Display` (42_busy_wait.md R176). -/
def afterWait (op : Op) (s : State) : Except Fault State :=
  match op with
  | .init =>
    match readReg .si s.dp.si with
    | .ok si => .ok (enterInitStep (si + 1) s)
    | .error f => .error f
  | .sleep => .ok (s.goto .sleep .deepSleepCmd 0)
  | .clear => .ok (s.goto .clear .done 0)
  | .display => .ok (s.goto .display .done 0)
  | .reset => .error .noSuchPosition
  | .convert => .error .noSuchPosition

/-- After a low sample: the count, then the timeout or the interval (42_busy_wait.md R170, R175). -/
def advanceLow (op : Op) (s : State) : Except Fault State :=
  match readReg .pc s.dp.pc with
  | .ok n =>
    match pollsExhausted s.cfg (n + 1) with
    | true => .ok ((countLow n s).raise .timeout)
    | false => .ok ((countLow n s).goto op .pollDelay (n + 1))
  | .error f => .error f

/-- After a sample that read `level`: the wait ends or goes on (42_busy_wait.md R170, R172). -/
def advancePoll (op : Op) (level : Level) (s : State) : Except Fault State :=
  match level with
  | .high => afterWait op (endWait s)
  | .low => advanceLow op s

/-- The position after the primitive of phase `ph`; a sample of `BUSY` made there read `level`. A check, a pixel and the
completion set the position themselves. -/
def advancePhase (op : Op) (ph : Phase) (k : Nat) (level : Level) (s : State) : Except Fault State :=
  match ph with
  | .check => .ok s
  | .pulse => .ok (advancePulse op k s)
  | .initCmd => advanceInitCmd s
  | .initArg => advanceInitArg s
  | .startCmd => .ok (enterStream op s)
  | .stream => advanceStream op k s
  | .refreshCmd => .ok (s.goto op .refreshDelay 0)
  | .refreshDelay => .ok (enterWait op s)
  | .poll => advancePoll op level s
  | .pollDelay => .ok (s.goto op .poll k)
  | .powerOffCmd => .ok (enterWait op s)
  | .deepSleepCmd => .ok (s.goto op .deepSleepArg 0)
  | .deepSleepArg => .ok ((s.setLs .sleeping).goto op .done 0)
  | .pixel => .ok s
  | .done => .ok s

/-- The state after the primitive at `seq` has left the state `s`: the next position, unless the primitive faulted and so
ended the operation (60_exceptions.md R223). -/
def advance (seq : Seq) (level : Level) (s : State) : Except Fault State :=
  match s.run, seq with
  | false, _ => .ok s
  | true, .idle => .ok s
  | true, .pos op ph k => advancePhase op ph k level s

/-- The outcome of an advance. -/
def outcomeOf : Except Fault State → Outcome State Fault Refusal
  | .ok s => .next s
  | .error f => .fault f

/-! ### Placing an instruction -/

/-- The host offers a request: it writes its port (10_state.md R44). -/
def State.offer (code : BitVec 3) (len : Nat) (s : State) : State :=
  { s with port := { s.port with opValid := true, opCode := code, bufLen := len } }

/-- The sequencer is at `seq` of an operation in progress, with these registers. -/
def State.placed (seq : Seq) (dp : Datapath) (s : State) : State := { s with run := true, seq := seq, dp := dp }

/-- `INIT_SEQ` holds one step, in the configuration. -/
def State.withInitStep (st : InitStep) (s : State) : State := { s with cfg := { s.cfg with initSeq := [st] } }

/-- A command frame is fetched from the sequence `INIT_SEQ`: it becomes its only step. -/
def State.placeCommand (v : Byte) (s : State) : State :=
  (s.withInitStep ⟨v, [], false⟩).placed (.pos .init .initCmd 0) { Datapath.empty with si := some 0 }

/-- A data frame is fetched as an argument of a step of `INIT_SEQ`. -/
def State.placeData (v : Byte) (s : State) : State :=
  (s.withInitStep ⟨0#8, [v], false⟩).placed (.pos .init .initArg 0) { Datapath.empty with si := some 0, ai := some 0 }

/-- A wire byte is fetched from the first pair of the first byte of `PBB`, in `Display`. -/
def State.placeWire (b : Byte) (s : State) : State :=
  (s.writePbb 0 b).placed (.pos .display .stream 0) { Datapath.empty with bi := some 0, pp := some 0 }

/-- An instruction stored where the machine fetches it next: a request at the port, a frame in `INIT_SEQ`, a wire byte in
`PBB` (log entry 15). The other rows have no word. -/
def State.place (i : Instr) (s : State) : State :=
  match i with
  | .reset => { s.offer 0#3 0 with run := false, seq := .idle }
  | .init => { s.offer 1#3 0 with run := false, seq := .idle }
  | .clear => { s.offer 2#3 0 with run := false, seq := .idle }
  | .display => { s.offer 3#3 bufSz with run := false, seq := .idle }
  | .sleep => { s.offer 4#3 0 with run := false, seq := .idle }
  | .convert => { s.offer 5#3 0 with run := false, seq := .idle }
  | .reserved110 => { s.offer 6#3 0 with run := false, seq := .idle }
  | .reserved111 => { s.offer 7#3 0 with run := false, seq := .idle }
  | .frameCommand v => s.placeCommand v
  | .frameData v => s.placeData v
  | .wire00 => s.placeWire 0x00#8
  | .wire03 => s.placeWire 0x40#8
  | .wire30 => s.placeWire 0x80#8
  | .wire33 => s.placeWire 0xC0#8
  | .turnOnDisplay => s
  | .busyWait => s
  | .encode => s
  | .expandByteToNibblePairs _ => s
  | .setLine _ _ => s
  | .readLine _ => s
  | .transmitByte _ _ => s
  | .pulseReset _ => s
  | .delay _ => s
  | .cmdPanelSetting => s
  | .cmdPowerSetting => s
  | .cmdPowerOff => s
  | .cmdPowerOn => s
  | .cmdBoosterSoftStart => s
  | .cmdDeepSleep => s
  | .cmdDataStartTransmission => s
  | .cmdDataStop => s
  | .cmdDisplayRefresh => s
  | .cmdPllControl => s
  | .cmdTemperatureCalibration => s
  | .cmdVcomAndDataIntervalSetting => s
  | .cmdTconSetting => s
  | .cmdTconResolution => s
  | .cmdFlashControl => s
  | .cmdRevision => s
  | .cmdGetStatus => s
  | .cmdVcomAutoMeasure => s
  | .cmdVcomRead => s
  | .cmdVcmDcSetting => s
  | .cmdFlashMode => s
  | .cmdLut _ => s

/-- A table word stored where the machine fetches it next; the block is out of reset. -/
def State.placeTableWord (nbits w : Nat) (s : State) : State :=
  match decodeTableWord nbits w with
  | some i => ({ s with port := { s.port with rstN := true } } : State).place i
  | none => s

end Sys2Proof.Machine
end

