-- ==== Sys2Proof/Machine/Step.lean ====
section
/-! DEFINITION. One step of DPS: block reset while `rst_n` is low (70_reset_and_hazards.md R262); else, with an operation in
progress, the instruction at SEQ and the move to the next position (10_state.md R27); else the request at the port, if one
is offered (41_protocol_driver.md R130); else nothing. -/

namespace Sys2Proof.Machine

/-- The step of an operation in progress. -/
def runStep (s : State) : Host.Outcome State Fault Refusal :=
  match fetch s with
  | .error f => .fault f
  | .ok (i, s0) =>
    match exec i s0 with
    | .next s' => outcomeOf (advance s.seq s0.busy.level s')
    | .fault f => .fault f
    | .refused r => .refused r

/-- The step while no operation runs. -/
def idleStep (s : State) : Host.Outcome State Fault Refusal :=
  match s.port.opValid with
  | true => exec (decodeOpCode s.port.opCode) s
  | false => .next s

/-- One step. -/
def step (s : State) : Host.Outcome State Fault Refusal :=
  match s.port.rstN, s.run with
  | false, _ => .next s.blockReset
  | true, true => runStep s.clearDone
  | true, false => idleStep s.clearDone

/-- The state with a table word stored where `step` fetches its next instruction. -/
def State.withFetchWord (s : State) (nbits w : Nat) : State := s.placeTableWord nbits w

end Sys2Proof.Machine
end

