-- ==== Sys2Proof/Safety.lean ====
section
/-! DEFINITION. The terms claims are stated in: the premises of a run (70_reset_and_hazards.md R280, R282), what a frame and a
wait append to the trace, the invariant that rules out the states no run reaches, the transition table, a run of requests and
its result (R281), and a host that acts while an operation runs (R267). -/

namespace Sys2Proof

open Machine

/-! ### Premises -/

/-- The next `n` effects that can fail are answered `ok`. -/
def NextOk (n : Nat) (s : State) : Prop := ∀ a ∈ s.faults.take n, a = FaultAnswer.ok

/-- `NoTransportFault` (70_reset_and_hazards.md R282). -/
def NoTransportFault (s : State) : Prop := ∀ a ∈ s.faults, a = FaultAnswer.ok

/-- The BUSY input after `n` samples. -/
def busyAfter : Nat → BusyInput → BusyInput
  | 0, b => b
  | n + 1, b => busyAfter n b.next

/-- The next `n` samples read low and the one after them high. -/
def LowsThenHigh (n : Nat) (b : BusyInput) : Prop :=
  (∀ m, m < n → (busyAfter m b).level = .low) ∧ (busyAfter n b).level = .high

/-- A wait that begins after `m` more samples ends: the oracle answers high in it or, with the optional bound `N`, `N` low
answers occur (70_reset_and_hazards.md R280). -/
def WaitEndsFrom (m : Nat) (s : State) : Prop :=
  (∃ n, LowsThenHigh n (busyAfter m s.busy)) ∨
    ∃ limit, s.cfg.busyTimeoutPolls = some limit ∧ ∀ k, k < limit → (busyAfter (m + k) s.busy).level = .low

/-- `BusyEventuallyHigh` (70_reset_and_hazards.md R280, R282): every wait ends, from whichever sample it begins. -/
def BusyEventuallyHigh (s : State) : Prop := ∀ m, WaitEndsFrom m s

/-- Every sample to come reads low. -/
def BusyLowForever (s : State) : Prop := ∀ n, (busyAfter n s.busy).level = .low

/-- The block is out of reset and no operation runs: `op_ready` is high (10_state.md R44). -/
def Waiting (s : State) : Prop := s.port.rstN = true ∧ s.run = false

/-- `k` steps of the machine, stopping at the first fault or refusal (`Host.Core.run core`, `runs_eq_coreRun`). -/
def runs : Nat → State → Host.Outcome State Fault Refusal
  | 0, s => .next s
  | k + 1, s =>
    match step s with
    | .next t => runs k t
    | .fault f => .fault f
    | .refused r => .refused r

/-! ### What is appended to the trace -/

/-- The latches after a frame of a kind: `DC` at the kind's level, `CS` inactive, `RST` as it was
(40_transport_primitives.md R112). -/
def frameLines (c : Config) (kind : Kind) (l : Lines) : Lines :=
  ⟨.driven (kindLevel c kind), .driven c.csActiveLevel.opposite, l.rst⟩

/-- The state after a frame none of whose effects fails. -/
def afterFrame (kind : Kind) (value : Byte) (s : State) : State :=
  { s with
    faults := s.faults.drop 4
    lines := frameLines s.cfg kind s.lines
    tr := s.tr ++ [.tx kind value .ok] }

/-- `Tx(command, c)`. -/
def cmdEvent (c : Byte) : Event := .tx .command c .ok

/-- `Tx(data, d)`. -/
def dataEvent (d : Byte) : Event := .tx .data d .ok

/-- The six elements of a reset pulse (41_protocol_driver.md R132). -/
def pulseEvents : List Event :=
  [.setLine .rst .high .ok, .delay 200, .setLine .rst .low .ok, .delay 200, .setLine .rst .high .ok, .delay 200]

/-- The elements of a low sample and its interval. -/
def lowPair : List Event := [.readBusy (.level .low), .delay 100]

/-- The elements of a wait with `n` low samples, `2n + 1` of them (42_busy_wait.md R170). -/
def waitEvents (n : Nat) : List Event := (List.replicate n lowPair).flatten ++ [.readBusy (.level .high)]

/-- The elements of one step of `INIT_SEQ`, its wait having `n` low samples (30_encoding.md R92). -/
def initStepEvents (n : Nat) (st : InitStep) : List Event :=
  cmdEvent st.cmd :: st.args.map dataEvent ++ (if st.wait then waitEvents n else [])

/-- The elements of a wire frame. -/
def wireEvents (bytes : List Byte) : List Event := bytes.map dataEvent

/-- The elements of `TurnOnDisplay` with `n` low samples (41_protocol_driver.md R136). -/
def refreshEvents (c : Config) (n : Nat) : List Event :=
  [cmdEvent c.codes.displayRefresh, .delay c.tRefreshDelay] ++ waitEvents n

/-- Fewer than `BUSY_TIMEOUT_POLLS` low samples, where it is set (42_busy_wait.md R175). -/
def WithinPolls (n : Nat) (c : Config) : Prop := ∀ limit, c.busyTimeoutPolls = some limit → n < limit

/-- What a completed operation leaves (41_protocol_driver.md R141): the lifecycle state, the status and the elements of TR
as given; RUN, SEQ, `op_done` and the datapath registers as completion leaves them; the operands as the request stated them;
the request gone from the port; the image and the configuration as they were. -/
structure Completed (s t : State) (ls : Lifecycle) (st : Status) (events : List Event) : Prop where
  ls : t.ls = ls
  status : t.status = st
  run : t.run = false
  seq : t.seq = .idle
  dp : t.dp = Datapath.empty
  opDone : t.opDone = true
  tr : t.tr = s.tr ++ events
  operands : t.operands = s.offeredOperands
  port : t.port = { s.port with opValid := false }
  img : t.img = s.img
  cfg : t.cfg = s.cfg

/-- How many effects that the fault oracle answers the primitive at a position has (40_transport_primitives.md R112, R117): four
for a frame, one for a drive and for a sample, none for a `Delay` and where there is no primitive. -/
def effectCount : Phase → Nat → Nat
  | .pulse, k => if k % 2 = 0 then 1 else 0
  | .initCmd, _ => 4
  | .initArg, _ => 4
  | .startCmd, _ => 4
  | .stream, _ => 4
  | .refreshCmd, _ => 4
  | .poll, _ => 1
  | .powerOffCmd, _ => 4
  | .deepSleepCmd, _ => 4
  | .deepSleepArg, _ => 4
  | .check, _ => 0
  | .refreshDelay, _ => 0
  | .pollDelay, _ => 0
  | .pixel, _ => 0
  | .done, _ => 0

/-- An element of TR that is marked failed. -/
def isFailed : Event → Bool
  | .setLine _ _ .failed => true
  | .readBusy .failed => true
  | .tx _ _ (.failedAt _) => true
  | .setLine _ _ .ok => false
  | .readBusy (.level _) => false
  | .tx _ _ .ok => false
  | .delay _ => false

/-- The stage of a frame's effect number `n` (40_transport_primitives.md R112). -/
def stageOf : Nat → TxStage
  | 0 => .select
  | 1 => .chipActive
  | 2 => .transfer
  | _ => .chipInactive

/-! ### The invariant -/

/-- `LS` while an operation is at a position (41_protocol_driver.md R139). -/
def lsAt : Op → Phase → Nat → Lifecycle → Prop
  | .reset, .done, _, ls => ls = .unpowered
  | .reset, _, _, _ => True
  | .init, .check, _, _ => True
  | .init, .pulse, _, ls => ls ≠ .sleeping
  | .init, .done, _, ls => ls = .ready
  | .init, _, _, ls => ls = .unpowered
  | .clear, .check, _, _ => True
  | .clear, _, _, ls => ls = .ready
  | .display, .check, 0, _ => True
  | .display, _, _, ls => ls = .ready
  | .sleep, .check, _, _ => True
  | .sleep, .done, _, ls => ls = .sleeping
  | .sleep, _, _, ls => ls = .ready
  | .convert, _, _, _ => True

/-- The registers a position reads hold values in their ranges, and `k` agrees with them (10_state.md R27, R28). -/
def regsAt (s : State) (op : Op) (ph : Phase) (k : Nat) : Prop :=
  match ph with
  | .check => k = 0 ∨ (op = .display ∧ k = 1)
  | .pulse => k < 6
  | .initCmd => s.dp.si = some k ∧ k < s.cfg.initSeq.length
  | .initArg =>
    ∃ si st, s.dp.si = some si ∧ s.cfg.initSeq[si]? = some st ∧ s.dp.ai = some k ∧ k < st.args.length
  | .stream =>
    ∃ bi pp, s.dp.bi = some bi ∧ s.dp.pp = some pp ∧ bi < bufSz ∧ pp < 4 ∧ k = 4 * bi + pp ∧
      (op = .display → 0 < pp → s.dp.inv = some (~~~(pbbByte s.pbb bi)))
  | .poll => s.dp.pc = some k ∧ (op = .init → ∃ si, s.dp.si = some si ∧ si < s.cfg.initSeq.length)
  | .pollDelay => s.dp.pc = some k ∧ (op = .init → ∃ si, s.dp.si = some si ∧ si < s.cfg.initSeq.length)
  | .pixel =>
    ∃ i j acc, s.dp.ci = some i ∧ s.dp.cj = some j ∧ s.dp.acc = some acc ∧ i < panelW ∧ j < panelH ∧
      k = panelW * j + i
  | .startCmd => k = 0
  | .refreshCmd => k = 0
  | .refreshDelay => k = 0
  | .powerOffCmd => k = 0
  | .deepSleepCmd => k = 0
  | .deepSleepArg => k = 0
  | .done => k = 0

/-- `SEQ` is Idle exactly when RUN = 0, and then no datapath register holds a value; else it is a position of its operation
(10_state.md R27, R31). -/
def SeqInv (s : State) : Prop :=
  match s.seq with
  | .idle => s.run = false ∧ s.dp = Datapath.empty
  | .pos op ph k => s.run = true ∧ op.hasPhase ph = true ∧ lsAt op ph k s.ls ∧ regsAt s op ph k

/-- The invariant of the machine. -/
structure Inv (s : State) : Prop where
  /-- The sequencer. -/
  seq : SeqInv s
  /-- `PBB` is canonical and lies within its addresses. -/
  pbb : memWf pbbDefault bufSz s.pbb = true
  /-- `IMG` is canonical and lies within its bounds. -/
  img : s.img.wf = true

/-- LS and STATUS after a completed operation (41_protocol_driver.md R138); `good` says whether the buffer has the right
length. -/
def transition (good : Bool) : Op → Lifecycle → Lifecycle × Status
  | .reset, _ => (.unpowered, .ok)
  | .init, .unpowered => (.ready, .ok)
  | .init, .ready => (.ready, .ok)
  | .init, .sleeping => (.sleeping, .invalidState)
  | .clear, .unpowered => (.unpowered, .invalidState)
  | .clear, .ready => (.ready, .ok)
  | .clear, .sleeping => (.sleeping, .invalidState)
  | .display, .unpowered => (.unpowered, .invalidState)
  | .display, .ready => (.ready, if good then .ok else .invalidBufferSize)
  | .display, .sleeping => (.sleeping, .invalidState)
  | .sleep, .unpowered => (.unpowered, .invalidState)
  | .sleep, .ready => (.sleeping, .ok)
  | .sleep, .sleeping => (.sleeping, .invalidState)
  | .convert, ls => (ls, .ok)

/-- LS after an operation that its wait ended with `Timeout` (41_protocol_driver.md R139, 60_exceptions.md R233). -/
def lsAfterTimeout : Op → Lifecycle → Lifecycle
  | .init, _ => .unpowered
  | .reset, ls => ls
  | .clear, ls => ls
  | .display, ls => ls
  | .sleep, ls => ls
  | .convert, ls => ls

/-! ### Runs of requests (70_reset_and_hazards.md R281) -/

/-- `FreshBlock` (R282): the state is one that block reset leaves, and the block is out of reset. -/
def FreshBlock (s : State) : Prop := s.port.rstN = true ∧ s.blockReset = s

/-- A request of a run: the operation, the length of the buffer offered and, where the host fills its memories for it, the
buffer and the image. -/
structure Request where
  op : Op
  bufLen : Nat
  buffer : Option (List Host.Cell)
  image : Option Image
  deriving DecidableEq, Repr

/-- The host fills its memories and offers the request. -/
def Request.present (r : Request) (s : State) : State :=
  { s.offer r.op.code r.bufLen with pbb := r.buffer.getD s.pbb, img := r.image.getD s.img }

/-- The operation in progress in `u` completes, and `t` is the state its completion leaves. -/
def CompletesAt (u t : State) : Prop :=
  ∃ k, runs k u = .next t ∧ t.run = false ∧ ∀ j, j < k → ∃ v, runs j u = .next v ∧ v.run = true

/-- The states in which the requests complete, one after another, each presented after the one before has completed; the
last of them is the end of the run. -/
def Serves : State → List Request → List State → Prop
  | _, [], ends => ends = []
  | s, r :: rest, ends =>
    ∃ u t tail, step (r.present s) = .next u ∧ CompletesAt u t ∧ Serves t rest tail ∧ ends = t :: tail

/-- The result of a run: LS, the status of each request in order, TR, and the contents of `PBB` after each `Convert`. -/
structure RunResult where
  ls : Lifecycle
  statuses : List Status
  tr : List Event
  buffers : List (List Host.Cell)
  deriving DecidableEq, Repr

/-- The buffers that the `Convert` requests among these wrote. -/
def convertBuffers : List Request → List State → List (List Host.Cell)
  | r :: rest, t :: ends => if r.op = .convert then t.pbb :: convertBuffers rest ends else convertBuffers rest ends
  | _, _ => []

/-- A run from the fresh block `s`, over when its last request has completed, has this result. A run in which a wait never
ends has none. -/
def IsRun (s : State) (requests : List Request) (result : RunResult) : Prop :=
  FreshBlock s ∧ ∃ ends, Serves s requests ends ∧
    result = ⟨(ends.getLastD s).ls, ends.map (·.status), (ends.getLastD s).tr, convertBuffers requests ends⟩

/-- LS at the end and the statuses, as the transition table gives them for a list of requests (41_protocol_driver.md R138). -/
def tableRun : Lifecycle → List Request → Lifecycle × List Status
  | ls, [] => (ls, [])
  | ls, r :: rest =>
    let p := transition (decide (r.bufLen = 30720)) r.op ls
    let q := tableRun p.1 rest
    (q.1, p.2 :: q.2)

/-! ### A host that acts while an operation runs -/

/-- What the host does to its own memories and ports between two steps. -/
inductive HostAct where
  | none
  | offer (code : BitVec 3) (len : Nat)
  | writeBuffer (address : Nat) (value : Byte)
  | setImage (image : Image)
  deriving DecidableEq, Repr

/-- The state after an act of the host. -/
def HostAct.apply : HostAct → State → State
  | .none, s => s
  | .offer code len, s => s.offer code len
  | .writeBuffer address value, s => s.writePbb address value
  | .setImage image, s => { s with img := image }

/-- Steps of the machine, each after an act of the host. -/
def hostRuns : List HostAct → State → Host.Outcome State Fault Refusal
  | [], s => .next s
  | a :: acts, s =>
    match step (a.apply s) with
    | .next t => hostRuns acts t
    | .fault f => .fault f
    | .refused r => .refused r

/-- A `Display` is between its acceptance and its completion. -/
def Machine.State.displaying (s : State) : Bool :=
  match s.seq with
  | .pos .display _ _ => s.run
  | _ => false

/-- `BufferStable` (R282, R267; 20_memory.md R69): no act of the host changes `PBB` while `Display` runs. -/
def BufferStable : List HostAct → State → Prop
  | [], _ => True
  | a :: acts, s =>
    (s.displaying = true → (a.apply s).pbb = s.pbb) ∧
      match step (a.apply s) with
      | .next t => BufferStable acts t
      | .fault _ => True
      | .refused _ => True

end Sys2Proof
end

