-- ==== Sys2Proof/Certificates/Slice0/Obligations.lean ====
section
/-! DEFINITION. The statements for the provers, each from a numbered rule of spec/; OBLIGATIONS.json lists them. -/

open Sys2Proof Sys2Proof.Machine Host

/-! ### Encodings -/

/-- 30_encoding.md R82, R83, R84, R89: words written out bit by bit decode to the rows they are. Choices it rests on: the
codes (D4), the kind bit (D5); the place of the bits in bytes (log entry 15). -/
def Obligations.WrittenOutWordsDecode : Prop :=
  decode .opreq [0b00000000#8] = .ok (.reset, []) ∧ decode .opreq [0b00000001#8] = .ok (.init, []) ∧
  decode .opreq [0b00000010#8] = .ok (.clear, []) ∧ decode .opreq [0b00000011#8] = .ok (.display, []) ∧
  decode .opreq [0b00000100#8] = .ok (.sleep, []) ∧ decode .opreq [0b00000101#8] = .ok (.convert, []) ∧
  decode .opreq [0b00000110#8] = .ok (.reserved110, []) ∧ decode .opreq [0b00000111#8] = .ok (.reserved111, []) ∧
  decodeFrame 0b000010010#9 = .frameCommand 0x12#8 ∧ decodeFrame 0b100110011#9 = .frameData 0x33#8 ∧
  decodeWire 0b00000000#8 = .ok .wire00 ∧ decodeWire 0b00000011#8 = .ok .wire03 ∧
  decodeWire 0b00110000#8 = .ok .wire30 ∧ decodeWire 0b00110011#8 = .ok .wire33 ∧
  decodeWire 0b00010011#8 = .error .notAWireByte

/-- Decoding the word of any well-formed instruction that has one gives what the word stands for (a vendor command's word
is the command frame of its byte), whatever the parameters `CMD_*` are and whatever bytes follow; and the rows of the
formats OPREQ, FRAME and WIRE have words, which stand for themselves. Choices it rests on: the codes (D4), the kind bit
(D5); the place of the bits in bytes (log entry 15). -/
def Obligations.DecodeOfEncodeIsTheInstruction : Prop :=
  (∀ (c : CommandCodes) (i : Instr) (format : Format) (bytes rest : List Byte), WellFormed i = true →
    encode c i = some (format, bytes) → decode format (bytes ++ rest) = .ok (wordMeaning c i, rest)) ∧
  (∀ (c : CommandCodes) (v : Byte) (i : Instr),
    i ∈ [.reset, .init, .clear, .display, .sleep, .convert, .reserved110, .reserved111, .frameCommand v, .frameData v,
      .wire00, .wire03, .wire30, .wire33] → (encode c i).isSome = true ∧ wordMeaning c i = i)

/-- Where bytes decode, they begin with the word of the instruction they decode to: no two words mean the same, and no bit
of a word is ignored. Choices it rests on: the codes (D4), the kind bit (D5); the place of the bits in bytes (log entry
15). -/
def Obligations.EncodeOfDecodeIsTheBytes : Prop :=
  ∀ (c : CommandCodes) (format : Format) (bytes rest : List Byte) (i : Instr),
    decode format bytes = .ok (i, rest) → ∃ word, encode c i = some (format, word) ∧ bytes = word ++ rest

/-! ### The step -/

/-- 41_protocol_driver.md R130: while no operation runs and the block is out of reset, the step is the meaning of the
request at the port, where one is offered, and else nothing but the fall of `op_done`. Choices it rests on: a request is
taken only while RUN = 0 (D17); the fall of `op_done` (log entry 6). -/
def Obligations.StepRunsTheRequestAtThePort : Prop :=
  ∀ s : State, Waiting s →
    (s.port.opValid = true → step s = exec (decodeOpCode s.port.opCode) { s with opDone := false }) ∧
    (s.port.opValid = false → step s = .next { s with opDone := false })

/-- 10_state.md R27: while an operation runs, the step is the meaning of the instruction at SEQ, and then the move to the next
position; `op_done` falls first; where that meaning is a fault of the model, so is the step. Choices it rests on: the grain of
a step (D2, log entry 1), the fall of `op_done` (log entry 6), the faults (log entry 17). -/
def Obligations.StepRunsTheInstructionAtSeq : Prop :=
  ∀ (s s0 : State) (i : Instr), s.port.rstN = true → s.run = true → fetch { s with opDone := false } = .ok (i, s0) →
    (∀ t, exec i s0 = .next t → step s = outcomeOf (advance s.seq s0.busy.level t)) ∧
    (∀ f, exec i s0 = .fault f → step s = .fault f)

/-- A table word placed by `withFetchWord` is what the next step runs: a request by `exec` of its instruction, a frame or
a wire byte by being the instruction at SEQ. Choices it rests on: where a word is placed (log entry 15). -/
def Obligations.PlacedWordIsRunNext : Prop :=
  ∀ (s : State) (nbits w : Nat) (i : Instr), decodeTableWord nbits w = some i →
    (step (s.withFetchWord nbits w) = exec i (s.withFetchWord nbits w).clearDone) ∨
    (∃ s0, fetch (s.withFetchWord nbits w).clearDone = .ok (i, s0) ∧ (s.withFetchWord nbits w).run = true ∧
      (s.withFetchWord nbits w).port.rstN = true)

/-- 10_state.md R42, 70_reset_and_hazards.md R260, R261: what block reset leaves, from every state, and that the reset
state is of that kind; it drives no line and sends no frame. Choices it rests on: the values beyond LS (D22); that the ports,
the memories, the answers to come, the counter of free values and the configuration stay as they are (log entry 16); that
`op_done` is low (log entry 6); that no request's operands are held (log entry 23). -/
def Obligations.BlockResetLeavesTheStatedValues : Prop :=
  (∀ s : State, s.port.rstN = false → ∃ t, step s = .next t ∧ t.ls = .unpowered ∧ t.status = .ok ∧ t.run = false ∧
    t.opDone = false ∧ t.seq = .idle ∧ t.operands = ⟨0, 0, 0⟩ ∧ t.dp = ⟨none, none, none, none, none, none, none, none, none⟩ ∧
    t.lines = ⟨.undriven, .undriven, .undriven⟩ ∧ t.tr = [] ∧ t.cfg = s.cfg ∧ t.pbb = s.pbb ∧ t.img = s.img ∧
    t.port = s.port ∧ t.busy = s.busy ∧ t.faults = s.faults ∧ t.freeCtr = s.freeCtr) ∧
  (State.reset.ls = .unpowered ∧ State.reset.status = .ok ∧ State.reset.run = false ∧ State.reset.opDone = false ∧ State.reset.seq = .idle ∧
    State.reset.operands = ⟨0, 0, 0⟩ ∧ State.reset.dp = ⟨none, none, none, none, none, none, none, none, none⟩ ∧
    State.reset.lines = ⟨.undriven, .undriven, .undriven⟩ ∧ State.reset.tr = [])

/-! ### Requests -/

/-- 41_protocol_driver.md R130, acceptance: while RUN = 0 each of the six operations is accepted: RUN is set, SEQ stands
at the operation's first phase, the operands are those presented with the request (buf_len, img_w, img_h), the request is gone
from the port (the model's convention, log entry 6), and nothing else is written, but that `Convert` starts its loops (CI, CJ,
ACC at 0). Choices it rests on: acceptance (D17), the request leaving the port (log entry 6), where the operands are held (log
entry 23), the grain of a step (D2, log entry 1). -/
def Obligations.RequestIsAcceptedWhileIdle : Prop :=
  ∀ s : State, s.run = false →
    exec .reset s =
      .next { s with
        run := true, seq := .pos .reset .pulse 0, operands := ⟨s.port.bufLen, s.img.w, s.img.h⟩,
        port := { s.port with opValid := false } } ∧
    exec .init s =
      .next { s with
        run := true, seq := .pos .init .check 0, operands := ⟨s.port.bufLen, s.img.w, s.img.h⟩,
        port := { s.port with opValid := false } } ∧
    exec .clear s =
      .next { s with
        run := true, seq := .pos .clear .check 0, operands := ⟨s.port.bufLen, s.img.w, s.img.h⟩,
        port := { s.port with opValid := false } } ∧
    exec .display s =
      .next { s with
        run := true, seq := .pos .display .check 0, operands := ⟨s.port.bufLen, s.img.w, s.img.h⟩,
        port := { s.port with opValid := false } } ∧
    exec .sleep s =
      .next { s with
        run := true, seq := .pos .sleep .check 0, operands := ⟨s.port.bufLen, s.img.w, s.img.h⟩,
        port := { s.port with opValid := false } } ∧
    exec .convert s =
      .next { s with
        run := true, seq := .pos .convert .pixel 0, operands := ⟨s.port.bufLen, s.img.w, s.img.h⟩,
        port := { s.port with opValid := false },
        dp := { s.dp with ci := some 0, cj := some 0, acc := some 0#8 } }

/-- 30_encoding.md R83: a reserved op_code is not accepted, no state changes, no line is driven. Choices it rests on: that
codes are reserved and refused (D4, U5), the request staying at the port (log entry 7). -/
def Obligations.ReservedCodeChangesNothing : Prop :=
  ∀ s : State, exec .reserved110 s = .next s ∧ exec .reserved111 s = .next s ∧
    (Waiting s → s.port.opValid = true → (s.port.opCode = 6#3 ∨ s.port.opCode = 7#3) →
      step s = .next { s with opDone := false })

/-- 41_protocol_driver.md R130, 93 U1, 30_encoding.md R80: while an operation runs, no step touches the port or `IMG`, and none but
block reset the operands of the request it serves: a request offered there is held off, not queued and not dropped; and it is not
merged: whatever code, buffer length, width, height and image are offered, the step does what it does without them, as long as
the image has, within the width and height of the request being served, the pixels it had. Choices it rests on: holding off (D17),
where the operands are held and that the pixels are not (log entry 23). -/
def Obligations.RequestIsHeldOffWhileRunning : Prop :=
  ∀ s t : State, s.run = true → step s = .next t →
    t.port = s.port ∧ t.img = s.img ∧ (s.port.rstN = true → t.operands = s.operands) ∧
    ∀ (code : BitVec 3) (len : Nat) (image : Image),
      (∀ x y, x < s.operands.w → y < s.operands.h → image.pixel x y = s.img.pixel x y) →
      step { s.offer code len with img := image } = .next { t.offer code len with img := image }

/-- 41_protocol_driver.md R131, 60_exceptions.md R221: the state check of `Init`, `Clear`, `Display`, `Sleep`. In a valid
state SEQ moves on and nothing else is written; in an invalid one the operation ends with `InvalidState`. Choices it rests
on: `Init` in Sleeping (D15), the order of the checks (D14), how a status is reported (D26), a check being a step (log
entry 1). -/
def Obligations.StateCheckFollowsTheTable : Prop :=
  ∀ (s : State) (op : Op) (valid : Bool) (next : Seq), s.run = true → s.seq = .pos op .check 0 →
    ((op = .init ∧ valid = decide (s.ls ≠ .sleeping) ∧ next = .pos .init .pulse 0) ∨
      (op = .clear ∧ valid = decide (s.ls = .ready) ∧ next = .pos .clear .startCmd 0) ∨
      (op = .display ∧ valid = decide (s.ls = .ready) ∧ next = .pos .display .check 1) ∨
      (op = .sleep ∧ valid = decide (s.ls = .ready) ∧ next = .pos .sleep .powerOffCmd 0)) →
    exec op.instr s =
      .next (if valid then { s with seq := next }
        else { s with status := .invalidState, run := false, seq := .idle, opDone := true, dp := Datapath.empty })

/-- 60_exceptions.md R221: an operation requested outside its valid states is over after two steps, with `InvalidState`;
LS, TR, the latches and the memories are as they were, and no answer of the panel or of the bus was asked for. Choices it
rests on: `Init` in Sleeping (D15), how a status is reported (D26), the request leaving the port (log entry 6), the two
steps (log entry 1), the operands taken with every request, in a field of the model (log entry 23). -/
def Obligations.InvalidStateDrivesNothing : Prop :=
  ∀ (s : State) (op : Op), Waiting s → op.validIn s.ls = false →
    ∃ u, exec op.instr s = .next u ∧
      runs 1 u = .next { s with
        status := .invalidState, run := false, seq := .idle, opDone := true, dp := Datapath.empty,
        operands := ⟨s.port.bufLen, s.img.w, s.img.h⟩,
        port := { s.port with opValid := false } }

/-- 60_exceptions.md R222, R229: `Display` in `Ready` with a buffer of any length but 30720 ends with `InvalidBufferSize`,
and nothing is sent or read. Choices it rests on: how a status is reported (D26), the request leaving the port (log entry
6), the three steps (log entry 1), the length that is checked being the one taken with the request, and all three operands held
in a field of the model (log entry 23). -/
def Obligations.WrongBufferLengthDrivesNothing : Prop :=
  ∀ s : State, Waiting s → s.ls = .ready → s.port.bufLen ≠ 30720 →
    ∃ u, exec .display s = .next u ∧
      runs 2 u = .next { s with
        status := .invalidBufferSize, run := false, seq := .idle, opDone := true, dp := Datapath.empty,
        operands := ⟨s.port.bufLen, s.img.w, s.img.h⟩,
        port := { s.port with opValid := false } }

/-! ### The transport primitives -/

/-- 40_transport_primitives.md R110: `SetLine` of an output line, the level driven before or not: the latch follows, the
element is recorded, nothing else changes but that one fault answer is taken. Choices it rests on: the fault answers as a
list (log entry 4). -/
def Obligations.SetLineDrivesItsLatch : Prop :=
  ∀ (s : State) (level : Level), NextOk 1 s →
    exec (.setLine .dc level) s = .next { s with
      faults := s.faults.drop 1, lines := { s.lines with dc := .driven level },
      tr := s.tr ++ [.setLine .dc level .ok] } ∧
    exec (.setLine .cs level) s = .next { s with
      faults := s.faults.drop 1, lines := { s.lines with cs := .driven level },
      tr := s.tr ++ [.setLine .cs level .ok] } ∧
    exec (.setLine .rst level) s = .next { s with
      faults := s.faults.drop 1, lines := { s.lines with rst := .driven level },
      tr := s.tr ++ [.setLine .rst level .ok] }

/-- 40_transport_primitives.md R117, 60_exceptions.md R223, R233: a `SetLine` answered `fault` is recorded as failed and
ends the operation with `TransportFault`, LS as it was; its latch holds the old level or the new one, and the other two
latches are as they were. Choices it rests on: what a fault stops and shows (D16), the latch as a free value (log entry
5). -/
def Obligations.FailedSetLineRaisesTransportFault : Prop :=
  ∀ (s : State) (line : Line) (level : Level), line.isOutput = true → s.faults.head? = some .fault →
    ∃ t, exec (.setLine line level) s = .next t ∧ t.tr = s.tr ++ [.setLine line level .failed] ∧
      t.status = .transportFault ∧ t.run = false ∧ t.seq = .idle ∧ t.opDone = true ∧ t.ls = s.ls ∧
      t.dp = Datapath.empty ∧
      (t.lines = s.lines ∨ t.lines = s.lines.drive line level) ∧ t.pbb = s.pbb ∧ t.img = s.img ∧ t.operands = s.operands ∧ t.port = s.port ∧
      t.busy = s.busy ∧ t.cfg = s.cfg

/-- The ill-formed terms stop by name (40_transport_primitives.md R110, R111; 30_encoding.md R90). Choices it rests on:
the names of the refusals (log entry 18). -/
def Obligations.IllFormedTermsStop : Prop :=
  ∀ (s : State) (level : Level) (index : Nat),
    exec (.setLine .busy level) s = .refused .inputLineDriven ∧ exec (.readLine .dc) s = .refused .outputLineRead ∧
    exec (.readLine .cs) s = .refused .outputLineRead ∧ exec (.readLine .rst) s = .refused .outputLineRead ∧
    (10 ≤ index → exec (.cmdLut index) s = .refused .noSuchLutCommand)

/-- 40_transport_primitives.md R111: `ReadLine(BUSY)` records the level the panel drives; of DPS only TR changes. A read
that is answered `fault` is recorded as failed and raises `TransportFault`. Choices it rests on: the answers as lists (log
entries 3, 4), what a fault stops and shows (D16). -/
def Obligations.ReadLineRecordsTheSample : Prop :=
  ∀ s : State,
    (NextOk 1 s → exec (.readLine .busy) s = .next { s with
      faults := s.faults.drop 1, busy := busyAfter 1 s.busy,
      tr := s.tr ++ [.readBusy (.level s.busy.level)] }) ∧
    (s.faults.head? = some .fault → exec (.readLine .busy) s = .next { s with
      faults := s.faults.drop 1, tr := s.tr ++ [.readBusy .failed],
      status := .transportFault, run := false, seq := .idle, opDone := true, dp := Datapath.empty })

/-- 40_transport_primitives.md R114: `Delay` appends its mark and changes nothing else. Choices it rests on: the primitive
itself (D29). -/
def Obligations.DelayOnlyMarksTheTrace : Prop :=
  ∀ (s : State) (ms : Nat), exec (.delay ms) s = .next { s with tr := s.tr ++ [.delay ms] }

/-- 40_transport_primitives.md R112, 20_memory.md R63: `TransmitByte` sets `DC` to its kind's level, makes chip-select
active, transfers the byte and makes chip-select inactive, in this order and nothing between, and it is one element of TR;
the latches are left as the last two drives say, and nothing else changes but that four fault answers are taken. Choices
it rests on: one element of TR for a frame (D28), the fault answers as a list (log entry 4). -/
def Obligations.TransmitByteIsFourEffects : Prop :=
  ∀ (s : State) (kind : Kind) (value : Byte), NextOk 4 s →
    exec (.transmitByte kind value) s = .next (afterFrame kind value s) ∧
    (afterFrame kind value s).refinedTrace = s.refinedTrace ++
      [.drive .dc (kindLevel s.cfg kind) .ok, .drive .cs s.cfg.csActiveLevel .ok, .transfer value .ok,
        .drive .cs s.cfg.csActiveLevel.opposite .ok]

/-- 30_encoding.md R84, R85, 40_transport_primitives.md R115: a command frame is `TransmitByte(command, v)` with `DC` at
`DC_CMD_LEVEL`, a data frame `TransmitByte(data, v)` with `DC` at the opposite level. Choices it rests on: the kind bit
and the polarity parameter (D5). -/
def Obligations.FramesAreTransmittedBytes : Prop :=
  ∀ (s : State) (v : Byte), NextOk 4 s →
    exec (.frameCommand v) s = .next (afterFrame .command v s) ∧ exec (.frameData v) s = .next (afterFrame .data v s) ∧
    (afterFrame .command v s).lines.dc = .driven s.cfg.dcCmdLevel ∧
    (afterFrame .data v s).lines.dc = .driven s.cfg.dcCmdLevel.opposite

/-- 40_transport_primitives.md R117, 60_exceptions.md R223, T22: effect number `n` of a frame is answered `fault`: the
frame is recorded as failed there, the operation ends with `TransportFault`, LS as it was; the effects before it have
happened (a fault in the transfer leaves chip-select active), those after it have not. Choices it rests on: what a fault
stops and shows (D16), the latch as a free value (log entry 5), the mark of a failed frame (log entry 12). -/
def Obligations.FailedFrameStopsAtItsEffect : Prop :=
  ∀ (s : State) (kind : Kind) (value : Byte) (n : Nat), n < 4 → NextOk n s → s.faults[n]? = some .fault →
    ∃ t, exec (.transmitByte kind value) s = .next t ∧ t.tr = s.tr ++ [.tx kind value (.failedAt (stageOf n))] ∧
      t.status = .transportFault ∧ t.run = false ∧ t.seq = .idle ∧ t.opDone = true ∧ t.ls = s.ls ∧
      t.faults = s.faults.drop (n + 1) ∧ t.lines.rst = s.lines.rst ∧
      (n = 0 → t.lines.cs = s.lines.cs ∧
        (t.lines.dc = s.lines.dc ∨ t.lines.dc = .driven (kindLevel s.cfg kind))) ∧
      (0 < n → t.lines.dc = .driven (kindLevel s.cfg kind)) ∧
      (n = 1 → t.lines.cs = s.lines.cs ∨ t.lines.cs = .driven s.cfg.csActiveLevel) ∧
      (n = 2 → t.lines.cs = .driven s.cfg.csActiveLevel) ∧
      (n = 3 → t.lines.cs = .driven s.cfg.csActiveLevel ∨ t.lines.cs = .driven s.cfg.csActiveLevel.opposite) ∧
      t.pbb = s.pbb ∧ t.img = s.img ∧ t.operands = s.operands ∧ t.port = s.port ∧ t.busy = s.busy ∧ t.cfg = s.cfg

/-- 40_transport_primitives.md R113: `PulseReset` drives `RST` to each level of its pattern, each followed by its dwell,
and is over after the last dwell; `DC` and `CS` are not touched and `BUSY` is not read. Choices it rests on: `Delay` as a
mark in TR (D29), the fault answers as a list (log entry 4). -/
def Obligations.PulseResetDrivesItsPattern : Prop :=
  ∀ (s : State) (pattern : List PulseEntry), NextOk pattern.length s →
    exec (.pulseReset pattern) s = .next { s with
      faults := s.faults.drop pattern.length
      lines := { s.lines with rst := (pattern.getLast?.map fun e => Latch.driven e.1).getD s.lines.rst }
      tr := s.tr ++ pattern.flatMap fun e => [.setLine .rst e.1 .ok, .delay e.2] }

/-- 30_encoding.md R90, R80, 40_transport_primitives.md R115: each of the 22 vendor command rows (the LUT family counted
as one) is one command frame whose byte is the parameter of its name, whatever the parameters are. Choices it rests on:
the commands as parameters (D8), a row as one frame (log entry 14). -/
def Obligations.VendorCommandIsOneCommandFrame : Prop :=
  ∀ s : State, NextOk 4 s →
    exec .cmdPanelSetting s = .next (afterFrame .command s.cfg.codes.panelSetting s) ∧
    exec .cmdPowerSetting s = .next (afterFrame .command s.cfg.codes.powerSetting s) ∧
    exec .cmdPowerOff s = .next (afterFrame .command s.cfg.codes.powerOff s) ∧
    exec .cmdPowerOn s = .next (afterFrame .command s.cfg.codes.powerOn s) ∧
    exec .cmdBoosterSoftStart s = .next (afterFrame .command s.cfg.codes.boosterSoftStart s) ∧
    exec .cmdDeepSleep s = .next (afterFrame .command s.cfg.codes.deepSleep s) ∧
    exec .cmdDataStartTransmission s = .next (afterFrame .command s.cfg.codes.dataStartTransmission s) ∧
    exec .cmdDataStop s = .next (afterFrame .command s.cfg.codes.dataStop s) ∧
    exec .cmdDisplayRefresh s = .next (afterFrame .command s.cfg.codes.displayRefresh s) ∧
    exec .cmdPllControl s = .next (afterFrame .command s.cfg.codes.pllControl s) ∧
    exec .cmdTemperatureCalibration s = .next (afterFrame .command s.cfg.codes.temperatureCalibration s) ∧
    exec .cmdVcomAndDataIntervalSetting s =
      .next (afterFrame .command s.cfg.codes.vcomAndDataIntervalSetting s) ∧
    exec .cmdTconSetting s = .next (afterFrame .command s.cfg.codes.tconSetting s) ∧
    exec .cmdTconResolution s = .next (afterFrame .command s.cfg.codes.tconResolution s) ∧
    exec .cmdFlashControl s = .next (afterFrame .command s.cfg.codes.flashControl s) ∧
    exec .cmdRevision s = .next (afterFrame .command s.cfg.codes.revision s) ∧
    exec .cmdGetStatus s = .next (afterFrame .command s.cfg.codes.getStatus s) ∧
    exec .cmdVcomAutoMeasure s = .next (afterFrame .command s.cfg.codes.vcomAutoMeasure s) ∧
    exec .cmdVcomRead s = .next (afterFrame .command s.cfg.codes.vcomRead s) ∧
    exec .cmdVcmDcSetting s = .next (afterFrame .command s.cfg.codes.vcmDcSetting s) ∧
    exec .cmdFlashMode s = .next (afterFrame .command s.cfg.codes.flashMode s) ∧
    (∀ (index : Nat) (h : index < 10),
      exec (.cmdLut index) s = .next (afterFrame .command s.cfg.codes.lut[index] s))

/-! ### The Wire Encoder -/

/-- 30_encoding.md R88, R89: each wire byte row is one data frame: the first pixel's code in the high nibble, the second's
in the low one, 0x0 for black and 0x3 for white. Choices it rests on: a row as one frame (log entry 14). -/
def Obligations.WireByteIsOneDataFrame : Prop :=
  ∀ s : State, NextOk 4 s →
    exec .wire00 s = .next (afterFrame .data 0x00#8 s) ∧ exec .wire03 s = .next (afterFrame .data 0x03#8 s) ∧
    exec .wire30 s = .next (afterFrame .data 0x30#8 s) ∧ exec .wire33 s = .next (afterFrame .data 0x33#8 s)

/-- 44_wire_encoder.md R202, R209: the four output bytes in terms of `b` itself, `48 * b[hi] + 3 * b[hi-1]`, the inverse, and that distinct bytes give distinct quadruples. -/
def Obligations.ExpansionInTermsOfTheByte : Prop :=
  ∀ b : Byte,
    expandPairs b =
      [BitVec.ofNat 8 (48 * (b.getLsbD 7).toNat + 3 * (b.getLsbD 6).toNat),
        BitVec.ofNat 8 (48 * (b.getLsbD 5).toNat + 3 * (b.getLsbD 4).toNat),
        BitVec.ofNat 8 (48 * (b.getLsbD 3).toNat + 3 * (b.getLsbD 2).toNat),
        BitVec.ofNat 8 (48 * (b.getLsbD 1).toNat + 3 * (b.getLsbD 0).toNat)] ∧
    (∀ o0 o1 o2 o3, expandPairs b = [o0, o1, o2, o3] → packFromWire o0 o1 o2 o3 = b) ∧
    ∀ b' : Byte, expandPairs b = expandPairs b' → b = b'

/-- 44_wire_encoder.md R201: `expandByteToNibblePairs` loads INV with `~b` and emits its four bytes in pair order; nothing
else is written but PP, and what frames write. Choices it rests on: the sub-sequence as one meaning (log entry 13). -/
def Obligations.ExpandEmitsItsFourBytes : Prop :=
  ∀ (s : State) (b : Byte), NextOk 16 s →
    exec (.expandByteToNibblePairs b) s = .next { s with
      faults := s.faults.drop 16, lines := frameLines s.cfg .data s.lines
      dp := { s.dp with inv := some (~~~b), pp := some 3 }
      tr := s.tr ++ wireEvents (expandPairs b) }

/-- 44_wire_encoder.md R200, R205, R206: `Encode` sends the 122880 data bytes of the buffer in `PBB`, in ascending order;
`PBB`, LS, STATUS, SEQ and the port are as they were. Choices it rests on: the sub-sequence as one meaning (log entry 13).
-/
def Obligations.EncodeSendsTheBuffer : Prop :=
  ∀ s : State, NoTransportFault s →
    ∃ t, exec .encode s = .next t ∧ t.tr = s.tr ++ wireEvents (encodeBuffer s.pbb) ∧
      (encodeBuffer s.pbb).length = 122880 ∧ t.lines = frameLines s.cfg .data s.lines ∧ t.pbb = s.pbb ∧ t.ls = s.ls ∧
      t.status = s.status ∧ t.run = s.run ∧ t.seq = s.seq ∧ t.opDone = s.opDone ∧ t.operands = s.operands ∧ t.port = s.port ∧ t.img = s.img ∧
      t.busy = s.busy ∧ t.freeCtr = s.freeCtr ∧ t.cfg = s.cfg

/-- 20_memory.md R50, R52, R54, R55, 44_wire_encoder.md R208: pixel (i, j), bit 7 - (i mod 8) of byte i/8 + 80*j of the buffer,
travels in data byte 4 * addr + (i mod 8)/2 of the wire frame, in the high nibble if i is even and the low one if it is
odd, as 0x3 if the bit is 1 and 0x0 if it is 0. -/
def Obligations.WireFrameIsInRasterOrder : Prop :=
  ∀ (m : List Host.Cell) (i j : Nat), i < 640 → j < 384 →
    ∃ b, (encodeBuffer m)[4 * (i / 8 + 80 * j) + (i % 8) / 2]? = some b ∧
      (if i % 2 = 0 then b.extractLsb' 4 4 else b.extractLsb' 0 4) =
        (if (pbbByte m (i / 8 + 80 * j)).getLsbD (7 - i % 8) then 0x3#4 else 0x0#4)

/-- 44_wire_encoder.md R206, R207: the wire frame of any buffer has 4 * widthBytes * heightBytes = 122880 bytes; an all-white
buffer gives 0x33 bytes, an all-black one 0x00 bytes, and so does each byte by itself. -/
def Obligations.UniformBuffersGiveUniformFrames : Prop :=
  ∀ m : List Host.Cell,
    (encodeBuffer m).length = 4 * widthBytes * heightBytes ∧ (encodeBuffer m).length = 122880 ∧
    ((∀ a, a < 30720 → pbbByte m a = 0xFF#8) → encodeBuffer m = List.replicate 122880 0x33#8) ∧
    ((∀ a, a < 30720 → pbbByte m a = 0x00#8) → encodeBuffer m = List.replicate 122880 0x00#8) ∧
    expandPairs 0xFF#8 = [0x33#8, 0x33#8, 0x33#8, 0x33#8] ∧ expandPairs 0x00#8 = [0x00#8, 0x00#8, 0x00#8, 0x00#8]

/-! ### Busy-wait and TurnOnDisplay -/

/-- 42_busy_wait.md R170, R172, R173, R175: one round of the loop, beginning a wait (PC holds no value) or going on with
one: a high sample ends the wait, with no interval; a low one is counted, and then the interval follows, or, at the N-th,
`Timeout`. Choices it rests on: sample first (D12), the bound (D13), one round as one meaning (log entry 13). -/
def Obligations.BusyWaitRound : Prop :=
  ∀ (s : State) (n : Nat), NextOk 1 s → (s.dp.pc = some n ∨ (s.dp.pc = none ∧ n = 0)) →
    (s.busy.level = .high → exec .busyWait s = .next { s with
      faults := s.faults.drop 1, busy := busyAfter 1 s.busy, dp := { s.dp with pc := none },
      tr := s.tr ++ [.readBusy (.level .high)] }) ∧
    (s.busy.level = .low → WithinPolls (n + 1) s.cfg → exec .busyWait s = .next { s with
      faults := s.faults.drop 1, busy := busyAfter 1 s.busy, dp := { s.dp with pc := some (n + 1) },
      tr := s.tr ++ [.readBusy (.level .low), .delay 100] }) ∧
    (s.busy.level = .low → (∃ limit, s.cfg.busyTimeoutPolls = some limit ∧ limit ≤ n + 1) →
      exec .busyWait s = .next { s with
        faults := s.faults.drop 1, busy := busyAfter 1 s.busy, dp := Datapath.empty,
        tr := s.tr ++ [.readBusy (.level .low)],
        status := .timeout, run := false, seq := .idle, opDone := true })

/-- 41_protocol_driver.md R136: `TurnOnDisplay` sends the refresh command, waits the fixed delay and then busy-waits: with
the panel ready, it is over; with the panel busy, its wait is in progress after the first low sample and its interval
(that `BusyWait` goes on with it is the model's grain, log entry 13), or, with a bound of one sample, it ends with
`Timeout`. Choices it rests on: the delay as a parameter (D11), sample first (D12), the bound (D13). -/
def Obligations.TurnOnDisplayRefreshesThenWaits : Prop :=
  ∀ s : State, NextOk 5 s →
    (s.busy.level = .high → exec .turnOnDisplay s = .next { s with
      faults := s.faults.drop 5, lines := frameLines s.cfg .command s.lines, busy := busyAfter 1 s.busy,
      dp := { s.dp with pc := none }, tr := s.tr ++ refreshEvents s.cfg 0 }) ∧
    (s.busy.level = .low → WithinPolls 1 s.cfg → exec .turnOnDisplay s = .next { s with
      faults := s.faults.drop 5, lines := frameLines s.cfg .command s.lines, busy := busyAfter 1 s.busy,
      dp := { s.dp with pc := some 1 },
      tr := s.tr ++ [cmdEvent s.cfg.codes.displayRefresh, .delay s.cfg.tRefreshDelay] ++ lowPair }) ∧
    (s.busy.level = .low → (∃ limit, s.cfg.busyTimeoutPolls = some limit ∧ limit ≤ 1) → exec .turnOnDisplay s = .next { s with
      faults := s.faults.drop 5, lines := frameLines s.cfg .command s.lines, busy := busyAfter 1 s.busy,
      dp := Datapath.empty,
      tr := s.tr ++ [cmdEvent s.cfg.codes.displayRefresh, .delay s.cfg.tRefreshDelay, .readBusy (.level .low)],
      status := .timeout, run := false, seq := .idle, opDone := true })

/-- 42_busy_wait.md R170, R176: a wait of any operation that has one, meeting `n` low samples and then a high one, is over
after 2n + 1 steps and has appended 2n + 1 elements. `Clear` and `Display` then stand at their completion, `Sleep` at the
deep-sleep command, `Init` at the next step of `INIT_SEQ`, or, after the last, with LS Ready, at its completion; else LS, and
STATUS in any case, are as they were. Choices it rests on: sample first (D12), when LS is written (D25), the grain of a step
(log entry 1). -/
def Obligations.WaitEndsAtTheFirstHighSample : Prop :=
  ∀ (s : State) (op : Op) (si n : Nat), s.port.rstN = true → s.run = true → s.seq = .pos op .poll 0 →
    op.hasPhase .poll = true → (op = .init → s.dp.si = some si) → s.dp.pc = some 0 → NoTransportFault s →
    LowsThenHigh n s.busy → WithinPolls n s.cfg →
    ∃ t, runs (2 * n + 1) s = .next t ∧ t.tr = s.tr ++ waitEvents n ∧ t.run = true ∧
      (op = .clear ∨ op = .display → t.seq = .pos op .done 0 ∧ t.ls = s.ls) ∧
      (op = .sleep → t.seq = .pos .sleep .deepSleepCmd 0 ∧ t.ls = s.ls) ∧
      (op = .init → si + 1 < s.cfg.initSeq.length →
        t.seq = .pos .init .initCmd (si + 1) ∧ t.dp.si = some (si + 1) ∧ t.ls = s.ls) ∧
      (op = .init → s.cfg.initSeq.length ≤ si + 1 → t.seq = .pos .init .done 0 ∧ t.ls = .ready) ∧
      t.status = s.status ∧ t.lines = s.lines ∧ t.pbb = s.pbb ∧ t.busy = busyAfter (n + 1) s.busy

/-- 42_busy_wait.md R174: without a bound, a line that reads low for ever keeps the operation in its wait for ever: after
any number of steps RUN is still 1, no status was written, LS is as it was, the request at the port was not taken, and TR
holds only low samples and intervals more. Choices it rests on: the grain of a step (log entry 1). -/
def Obligations.LowLineHangsForever : Prop :=
  ∀ (s : State) (op : Op) (n : Nat), s.port.rstN = true → s.run = true → s.seq = .pos op .poll n →
    op.hasPhase .poll = true → s.dp.pc = some n → NoTransportFault s → BusyLowForever s →
    s.cfg.busyTimeoutPolls = none →
    ∀ k, ∃ t, runs k s = .next t ∧ t.run = true ∧ t.ls = s.ls ∧ t.status = s.status ∧ t.operands = s.operands ∧
      t.port = s.port ∧ t.tr = s.tr ++ (List.replicate (k / 2) lowPair).flatten ++
        (if k % 2 = 1 then [.readBusy (.level .low)] else []) ∧
      t.seq = (if k % 2 = 1 then .pos op .pollDelay (n + k / 2 + 1) else .pos op .poll (n + k / 2))

/-- 42_busy_wait.md R175, 60_exceptions.md R224, R233: with `BUSY_TIMEOUT_POLLS = some N`, N low samples end the operation
with `Timeout`, no interval after the last, LS as it was. Choices it rests on: the bound (D13), the grain of a step (log
entry 1). -/
def Obligations.TimeoutAfterTheBound : Prop :=
  ∀ (s : State) (op : Op) (limit : Nat), s.port.rstN = true → s.run = true → s.seq = .pos op .poll 0 →
    op.hasPhase .poll = true → s.dp.pc = some 0 → NoTransportFault s → 0 < limit →
    s.cfg.busyTimeoutPolls = some limit → (∀ m, m < limit → (busyAfter m s.busy).level = .low) →
    ∃ t, runs (2 * limit - 1) s = .next t ∧ t.status = .timeout ∧ t.run = false ∧ t.seq = .idle ∧ t.opDone = true ∧
      t.dp = Datapath.empty ∧ t.ls = s.ls ∧ t.lines = s.lines ∧ t.pbb = s.pbb ∧
      t.tr = s.tr ++ (List.replicate (limit - 1) lowPair).flatten ++ [.readBusy (.level .low)]

/-! ### The operations, from acceptance to completion -/

/-- 41_protocol_driver.md R132: `Reset`, from any lifecycle state. Choices it rests on: when LS is written (D25), `Delay`
as a mark in TR (D29), the seven steps (log entry 1), the request leaving the port (log entry 6), the operands taken with every
request (log entry 23). -/
def Obligations.ResetPulsesTheLine : Prop :=
  ∀ s : State, Waiting s → NextOk 3 s →
    ∃ u t, exec .reset s = .next u ∧ runs 7 u = .next t ∧ Completed s t .unpowered .ok pulseEvents ∧
      t.lines = { s.lines with rst := .driven .high } ∧ t.pbb = s.pbb ∧ t.busy = s.busy

/-- 41_protocol_driver.md R133, R139, 30_encoding.md R92, R93: `Init`, from Unpowered or Ready, for every `INIT_SEQ` the
spec allows and a panel that answers `n` low samples and then a high one: the reset pulse, the frames of `INIT_SEQ` in
order, the wait after the power-on command, then Ready. Choices it rests on: what INIT_SEQ must satisfy (D9) and the
rows of `configWf` that are deduced (log entry 2), sample first (D12), when LS is written (D25), the request leaving the port
(log entry 6), the operands taken with every request (log entry 23). -/
def Obligations.InitSendsTheInitSequence : Prop :=
  ∀ (s : State) (n : Nat), Waiting s → s.ls ≠ .sleeping → NoTransportFault s → configWf s.cfg = true →
    LowsThenHigh n s.busy → WithinPolls n s.cfg →
    ∃ u k t, exec .init s = .next u ∧ runs k u = .next t ∧
      Completed s t .ready .ok (pulseEvents ++ s.cfg.initSeq.flatMap (initStepEvents n)) ∧
      t.lines.rst = .driven .high ∧ t.lines.cs = .driven s.cfg.csActiveLevel.opposite ∧ t.pbb = s.pbb ∧
      t.busy = busyAfter (n + 1) s.busy

/-- 41_protocol_driver.md R134: `Clear` in Ready: the data-start command, 122880 data frames 0x33, `TurnOnDisplay`.
Choices it rests on: the delay as a parameter (D11), sample first (D12), the request leaving the port (log entry 6), the operands
taken with every request (log entry 23). -/
def Obligations.ClearSendsTheWhiteFrame : Prop :=
  ∀ (s : State) (n : Nat), Waiting s → s.ls = .ready → NoTransportFault s → LowsThenHigh n s.busy →
    WithinPolls n s.cfg →
    ∃ u k t, exec .clear s = .next u ∧ runs k u = .next t ∧
      Completed s t .ready .ok
        (cmdEvent s.cfg.codes.dataStartTransmission :: List.replicate 122880 (dataEvent 0x33#8) ++
          refreshEvents s.cfg n) ∧
      t.lines = frameLines s.cfg .command s.lines ∧ t.pbb = s.pbb ∧ t.busy = busyAfter (n + 1) s.busy

/-- 41_protocol_driver.md R135, R130, 70_reset_and_hazards.md R267: `Display` in Ready of a buffer of 30720 bytes: the
data-start command, the wire frame of the buffer, `TurnOnDisplay`; and the same of a host that acts between the steps, offers
requests of any code and length and changes its image, as long as the buffer is stable: but for what the host itself left at
its port and in `IMG`, nothing is different. Choices it rests on: the delay as a parameter (D11), sample first (D12), holding off
(D17), the request leaving the port (log entry 6), the stable buffer and that a host acts between steps (D23, R267, log entry
21), where the operands are held (log entry 23). -/
def Obligations.DisplaySendsTheBuffer : Prop :=
  ∀ (s : State) (n : Nat), Waiting s → s.ls = .ready → s.port.bufLen = 30720 → NoTransportFault s →
    LowsThenHigh n s.busy → WithinPolls n s.cfg →
    ∃ u k t, exec .display s = .next u ∧ runs k u = .next t ∧
      Completed s t .ready .ok
        (cmdEvent s.cfg.codes.dataStartTransmission :: wireEvents (encodeBuffer s.pbb) ++ refreshEvents s.cfg n) ∧
      t.lines = frameLines s.cfg .command s.lines ∧ t.pbb = s.pbb ∧ t.busy = busyAfter (n + 1) s.busy ∧
      ∀ acts : List HostAct, acts.length = k → BufferStable acts u →
        ∃ port image, hostRuns acts u = .next { t with port := port, img := image }

/-- 41_protocol_driver.md R140: `Clear` and `Display` of the buffer of 30720 bytes 0xFF leave the same state, the trace
included. Choices it rests on: the registers holding no value afterwards (log entry 9), the request leaving the
port (log entry 6), the operands taken with every request, so with `Clear` too (log entry 23). -/
def Obligations.ClearIsDisplayOfTheWhiteBuffer : Prop :=
  ∀ (s : State) (n : Nat), Waiting s → s.ls = .ready → s.port.bufLen = 30720 →
    (∀ a, a < 30720 → pbbByte s.pbb a = 0xFF#8) → NoTransportFault s → LowsThenHigh n s.busy → WithinPolls n s.cfg →
    ∃ u v k m t, exec .clear s = .next u ∧ exec .display s = .next v ∧ runs k u = .next t ∧ runs m v = .next t ∧
      t.run = false

/-- 41_protocol_driver.md R137: `Sleep` in Ready: power-off, busy-wait, deep sleep with its argument, then Sleeping.
Choices it rests on: one argument byte (D10), sample first (D12), when LS is written (D25), the request leaving the port
(log entry 6), the operands taken with every request (log entry 23). -/
def Obligations.SleepPowersOffThenSleeps : Prop :=
  ∀ (s : State) (n : Nat), Waiting s → s.ls = .ready → NoTransportFault s → LowsThenHigh n s.busy →
    WithinPolls n s.cfg →
    ∃ u k t, exec .sleep s = .next u ∧ runs k u = .next t ∧
      Completed s t .sleeping .ok
        (cmdEvent s.cfg.codes.powerOff :: waitEvents n ++
          [cmdEvent s.cfg.codes.deepSleep, dataEvent s.cfg.argDeepSleep]) ∧
      t.lines = frameLines s.cfg .data s.lines ∧ t.pbb = s.pbb ∧ t.busy = busyAfter (n + 1) s.busy

/-- 43_image_converter.md R180, R181, R184, R186: `Convert`, in any lifecycle state and for any image: every byte of `PBB`
is the packed byte of its eight pixels; LS, TR, the latches and the panel's answers are as they were. Choices it rests on:
that the quantiser is a parameter (D18, log entry 11), the image's origin (D19), `Convert` in every lifecycle state (D24), the
request leaving the port (log entry 6), where the operands are held (log entry 23). The host leaves the image alone meanwhile. -/
def Obligations.ConvertPacksTheImage : Prop :=
  ∀ s : State, Waiting s → memWf pbbDefault bufSz s.pbb = true →
    ∃ u k t, exec .convert s = .next u ∧ runs k u = .next t ∧ Completed s t s.ls .ok [] ∧
      (∀ g j, g < 80 → j < 384 → pbbByte t.pbb (g + 80 * j) = packedByte s.cfg s.img g j) ∧
      memWf pbbDefault bufSz t.pbb = true ∧ t.lines = s.lines ∧ t.busy = s.busy ∧ t.faults = s.faults

/-- 43_image_converter.md R190: `Convert` of an image of exactly the panel's size leaves 30720 bytes 0x00 if it is pure
black and 30720 bytes 0xFF if it is pure white. -/
def Obligations.ConvertOfPureImages : Prop :=
  ∀ s : State, Waiting s → memWf pbbDefault bufSz s.pbb = true → s.img.w = 640 → s.img.h = 384 →
    ∃ u k t, exec .convert s = .next u ∧ runs k u = .next t ∧ t.run = false ∧ t.status = .ok ∧
      ((∀ x y, x < 640 → y < 384 → s.img.pixel x y = 0x000000#24) → ∀ a, a < 30720 → pbbByte t.pbb a = 0x00#8) ∧
      ((∀ x y, x < 640 → y < 384 → s.img.pixel x y = 0xFFFFFF#24) → ∀ a, a < 30720 → pbbByte t.pbb a = 0xFF#8)

/-- 41_protocol_driver.md R138, 70_reset_and_hazards.md R280, R281: every operation, requested in any lifecycle state,
completes, if no primitive faults and its wait ends, with LS and STATUS as the transition table says, or, with the bound on
the wait set and reached, with `Timeout`; and so every list of requests from a fresh block is a run with a result, one status
for each request, which without the bound is the table's. Choices it rests on: `Init` in Sleeping (D15), the order of the
checks (D14), the bound (D13), when LS is written (D25), `Convert` in every lifecycle state (D24), the end of a run (D31), the
rows of `configWf` that are deduced (log entry 2), the request leaving the port (log entry 6), the premises as predicates
(log entry 19), that a fresh block holds no operands (log entry 23). -/
def Obligations.EveryOperationCompletesAsTheTableSays : Prop :=
  (∀ (s : State) (op : Op), Waiting s → NoTransportFault s → WaitEndsFrom 0 s → configWf s.cfg = true →
    ∃ u t, exec op.instr s = .next u ∧ CompletesAt u t ∧ t.seq = .idle ∧
      ((t.ls, t.status) = transition (decide (s.port.bufLen = 30720)) op s.ls ∨
        (t.status = .timeout ∧ t.ls = lsAfterTimeout op s.ls ∧
          ∃ limit, s.cfg.busyTimeoutPolls = some limit ∧ ∀ m, m < limit → (busyAfter m s.busy).level = .low))) ∧
  (∀ (s : State) (requests : List Request), FreshBlock s → NoTransportFault s → BusyEventuallyHigh s →
    configWf s.cfg = true →
    ∃ result, IsRun s requests result ∧ result.statuses.length = requests.length ∧
      (s.cfg.busyTimeoutPolls = none → (result.ls, result.statuses) = tableRun .unpowered requests))

/-! ### The Image Converter -/

/-- 43_image_converter.md R183: the default quantiser, the nearer of black and white, is white exactly when r + g + b >= 383;
the configured one keeps black and white whatever its list holds, and is the default where the list is empty; and every
quantiser that keeps black and white is some list's. Choices it rests on: the default (D18), the form of the parameter (log
entry 11). -/
def Obligations.QuantizeIsTheSumRule : Prop :=
  (∀ p : Rgb, quantizeDefault p = decide (383 ≤ red p + green p + blue p)) ∧
  (∀ c : Config, quantize c 0x000000#24 = false ∧ quantize c 0xFFFFFF#24 = true ∧
    (c.quantizeFlips = [] → ∀ p, quantize c p = quantizeDefault p)) ∧
  (∀ f : Rgb → Bool, f 0x000000#24 = false → f 0xFFFFFF#24 = true →
    ∃ flips, ∀ c : Config, c.quantizeFlips = flips → ∀ p, quantize c p = f p)

/-- 43_image_converter.md R184, 10_state.md R29: the packed byte is what eight additions to ACC from 0 give, the first at bit 7;
so bit 7 - n is the bit of pixel 8g + n. -/
def Obligations.PackedByteIsTheAccumulator : Prop :=
  ∀ (c : Config) (img : Image) (g j : Nat),
    packedByte c img g j = ((List.range 8).map fun n => pixelBit c img (8 * g + n) j).foldl accumulate 0#8 ∧
    ∀ n, n < 8 → (packedByte c img g j).getLsbD (7 - n) = pixelBit c img (8 * g + n) j

/-- 43_image_converter.md R187, R188, R189, R190: what `Convert` makes of images smaller than the panel, empty, and of one
colour: the bits outside the image are 1; an empty image gives 0xFF; within a pure black image a byte is 0x00, within a
pure white one 0xFF; pixels beyond the panel have no effect. Choices it rests on: that the quantiser is a
parameter (D18, log entry 11), the image's origin (D19). -/
def Obligations.PackedByteOfSpecialImages : Prop :=
  ∀ (c : Config) (img : Image) (g j : Nat),
    ((∀ n, n < 8 → img.w ≤ 8 * g + n ∨ img.h ≤ j → (packedByte c img g j).getLsbD (7 - n) = true)) ∧
    (img.w = 0 ∨ img.h = 0 → packedByte c img g j = 0xFF#8) ∧
    (8 * g + 8 ≤ img.w → j < img.h → (∀ x y, x < img.w → y < img.h → img.pixel x y = 0x000000#24) →
      packedByte c img g j = 0x00#8) ∧
    ((∀ x y, x < img.w → y < img.h → img.pixel x y = 0xFFFFFF#24) → packedByte c img g j = 0xFF#8) ∧
    (∀ img' : Image, g < 80 → j < 384 → (∀ x y, x < 640 → y < 384 →
      img'.contains x y = img.contains x y ∧ (img.contains x y = true → img'.pixel x y = img.pixel x y)) →
      packedByte c img' g j = packedByte c img g j)

/-! ### The memories -/

/-- A byte of `PBB` written is read back, every other byte is as it was, the canonical form is kept; and two canonical
memories that read alike are equal. Choices it rests on: the canonical form and what an unlisted byte reads as (log entry
8). -/
def Obligations.BufferMemoryIsCanonical : Prop :=
  (∀ (s : State) (a : Nat) (v : Byte), memWf pbbDefault bufSz s.pbb = true → a < bufSz →
    pbbByte (s.writePbb a v).pbb a = v ∧ (∀ b, b ≠ a → pbbByte (s.writePbb a v).pbb b = pbbByte s.pbb b) ∧
    memWf pbbDefault bufSz (s.writePbb a v).pbb = true) ∧
  (∀ m m' : List Host.Cell, memWf pbbDefault bufSz m = true → memWf pbbDefault bufSz m' = true →
    (∀ a, pbbByte m a = pbbByte m' a) → m = m')

/-! ### Rules of the whole machine -/

/-- The reset state meets the invariant. Choices it rests on: the invariant is the model's (log entries 1, 8, 9, 10). -/
def Obligations.ResetMeetsTheInvariant : Prop := Inv State.reset

/-- 10_state.md R27, R28, R31: from every state that meets the invariant, a step answers a next state, no fault and no
refusal, and the invariant holds again. Choices it rests on: the invariant is the model's (log entries 1, 8, 9, 10). -/
def Obligations.StepKeepsTheInvariant : Prop := ∀ s : State, Inv s → ∃ t, step s = .next t ∧ Inv t

/-- 10_state.md R38, R27, 20_memory.md R65: TR only grows, and by at most one element a step. Choices it rests on: one
element of TR for a frame (D28), the grain of a step (log entry 1). -/
def Obligations.TraceOnlyGrows : Prop :=
  ∀ s t : State, s.port.rstN = true → step s = .next t → t.tr = s.tr ∨ ∃ e, t.tr = s.tr ++ [e]

/-- 41_protocol_driver.md R142: while no operation runs, DPS drives no line, sends no frame and samples nothing. Choices
it rests on: that nothing else is sent (D27). -/
def Obligations.IdleBlockDrivesNothing : Prop :=
  ∀ s t : State, Waiting s → step s = .next t →
    t.tr = s.tr ∧ t.lines = s.lines ∧ t.busy = s.busy ∧ t.faults = s.faults ∧ t.ls = s.ls ∧ t.status = s.status ∧
      t.pbb = s.pbb

/-- 10_state.md R22, 41_protocol_driver.md R139: who writes LS: the end of a reset pulse, to Unpowered; `Init`, to Ready;
the argument frame of `Sleep`, to Sleeping; and nothing else. Choices it rests on: when LS is written (D25). -/
def Obligations.LifecycleIsWrittenOnlyWhereStated : Prop :=
  ∀ s t : State, s.port.rstN = true → step s = .next t → t.ls = s.ls ∨
    (∃ op k, (op = .reset ∨ op = .init) ∧ s.seq = .pos op .pulse k ∧ k + 1 ≥ 6 ∧ t.ls = .unpowered) ∨
    (∃ ph k, s.seq = .pos .init ph k ∧ t.seq = .pos .init .done 0 ∧ t.ls = .ready) ∨
    (∃ k, s.seq = .pos .sleep .deepSleepArg k ∧ t.seq = .pos .sleep .done 0 ∧ t.ls = .sleeping)

/-- 41_protocol_driver.md R138, R137, 60_exceptions.md R238: from Sleeping, only the pulse of a `Reset` leads out, and it
leads to Unpowered. Choices it rests on: `Init` in Sleeping (D15), when LS is written (D25). -/
def Obligations.OnlyResetLeavesSleeping : Prop :=
  ∀ s t : State, Inv s → s.port.rstN = true → s.ls = .sleeping → step s = .next t →
    t.ls = .sleeping ∨ (t.ls = .unpowered ∧ s.seq = .pos .reset .pulse 5)

/-- 10_state.md R23, 41_protocol_driver.md R141: STATUS is written only by a completion, which sets RUN to 0 and SEQ to
Idle and raises `op_done`; and `op_done` is high after no other step. Choices it rests on: how a status is reported (D26),
the fall of `op_done` (log entry 6). -/
def Obligations.StatusIsWrittenOnlyAtCompletion : Prop :=
  ∀ s t : State, s.port.rstN = true → step s = .next t →
    (t.status ≠ s.status → s.run = true ∧ t.run = false ∧ t.seq = .idle ∧ t.opDone = true) ∧
    (t.opDone = true ↔ s.run = true ∧ t.run = false)

/-- 60_exceptions.md R233, R232: no error writes LS: the step that ends an operation with a status other than OK leaves LS as
that step finds it. What the operation had written before stays written. Choices it rests on: LS at an error (D16), when LS is
written (D25). -/
def Obligations.NoErrorWritesLifecycle : Prop :=
  ∀ s t : State, s.port.rstN = true → s.run = true → step s = .next t → t.run = false → t.status ≠ .ok → t.ls = s.ls

/-- 60_exceptions.md R223, R231: in every position, a `fault` answer at any effect of the primitive there (the four of a frame,
the one of a drive or of a sample) ends the operation: the primitive is recorded as failed, a frame at that effect, nothing
after it is done, LS is as it was. Choices it rests on: what a fault stops and shows (D16), the fault answers as a list (log
entry 4), the mark of a failed frame (log entry 12), the grain of a step (log entry 1). -/
def Obligations.FaultEndsTheOperation : Prop :=
  ∀ (s : State) (op : Op) (ph : Phase) (k n : Nat), Inv s → s.port.rstN = true → s.seq = .pos op ph k →
    n < effectCount ph k → NextOk n s → s.faults[n]? = some .fault →
    ∃ t e, step s = .next t ∧ t.tr = s.tr ++ [e] ∧ isFailed e = true ∧
      (∀ kind value stage, e = .tx kind value (.failedAt stage) → stage = stageOf n) ∧
      t.status = .transportFault ∧ t.run = false ∧ t.seq = .idle ∧ t.opDone = true ∧ t.ls = s.ls ∧ t.pbb = s.pbb ∧
      t.busy = s.busy ∧ t.faults = s.faults.drop (n + 1)

/-- 30_encoding.md R90, R91, R97, 41_protocol_driver.md R142: a command frame that a step sends is one of a step of `INIT_SEQ`,
data start, refresh, power-off or deep sleep; with a configuration that the spec allows it is none of the commands that are
never sent, in `Init` it is one of those that `Init` may send, and no step of `INIT_SEQ` gives power-on, power-off or refresh
an argument. Choices it rests on: that nothing else is sent (D27), no argument (D10), what a configuration must satisfy (D8,
D9, log entry 2). -/
def Obligations.OnlyListedCommandsAreSent : Prop :=
  (∀ (s t : State) (c : Byte) (mark : TxMark), s.port.rstN = true → step s = .next t →
    t.tr = s.tr ++ [.tx .command c mark] →
    (c ∈ s.cfg.initSeq.map (·.cmd) ∨
      c ∈ [s.cfg.codes.dataStartTransmission, s.cfg.codes.displayRefresh, s.cfg.codes.powerOff,
        s.cfg.codes.deepSleep]) ∧
    (configWf s.cfg = true → c ∉ neverSent s.cfg.codes ∧
      ∀ k, s.seq = .pos .init .initCmd k → c ∈ initCommands s.cfg.codes)) ∧
  (∀ c : Config, configWf c = true → ∀ st ∈ c.initSeq,
    st.cmd ∈ [c.codes.powerOn, c.codes.powerOff, c.codes.displayRefresh] → st.args = [])

/-- 30_encoding.md R89: what is sent in the wire frame is data frames, each 0x00, 0x03, 0x30 or 0x33; in `Clear` each is 0x33. -/
def Obligations.WireFrameHoldsPixelCodes : Prop :=
  ∀ (s t : State) (op : Op) (k : Nat), s.port.rstN = true → s.run = true → s.seq = .pos op .stream k →
    step s = .next t →
    ∃ b mark, t.tr = s.tr ++ [.tx .data b mark] ∧ b ∈ [0x00#8, 0x03#8, 0x30#8, 0x33#8] ∧ (op = .clear → b = 0x33#8)

/-- 42_busy_wait.md R176, 40_transport_primitives.md R118: `BUSY` is sampled only at the polls of `Init`, `Clear`,
`Display` and `Sleep`. Choices it rests on: that nothing else is read (D27). -/
def Obligations.BusyIsReadOnlyInWaits : Prop :=
  ∀ (s t : State) (sample : Sample), s.port.rstN = true → step s = .next t → t.tr = s.tr ++ [.readBusy sample] →
    ∃ op k, s.seq = .pos op .poll k ∧ (op = .init ∨ op = .clear ∨ op = .display ∨ op = .sleep)

/-- 10_state.md R21, R26, R34, R43, R44, 20_memory.md R60, R61: no step writes the configuration or `IMG`; only `Convert` writes
`PBB`, one byte at most a step, whose address its registers name; every step, block reset among them, writes exactly what the
ports `cv_we`, `cv_addr`, `cv_wdata` show; and it reads of `PBB` the byte at `buf_addr` only and of `IMG` the pixel at `px_x`,
`px_y` only, nothing where they show none: with another buffer, or another image, that agrees there, the step is the same but for
that memory (the width and the height, which acceptance takes, are ports of their own). Choices it rests on: one pixel a step (log
entry 1), the ports showing nothing when nothing is read or written (log entry 22), what the operands of a request are and when a
pixel is read (log entry 23). -/
def Obligations.OnlyConvertWritesTheBuffer : Prop :=
  ∀ s t : State, step s = .next t → t.cfg = s.cfg ∧ t.img = s.img ∧
    (t.pbb = s.pbb ∨ ∃ k i j, s.seq = .pos .convert .pixel k ∧ s.dp.ci = some i ∧ s.dp.cj = some j ∧
      ∀ a, a ≠ i / 8 + j * 80 → pbbByte t.pbb a = pbbByte s.pbb a) ∧
    (s.cvWrite = none → t.pbb = s.pbb) ∧ (∀ a v, s.cvWrite = some (a, v) → t.pbb = memWrite pbbDefault s.pbb a v) ∧
    (∀ m : List Cell, (∀ a, s.bufAddr = some a → pbbByte m a = pbbByte s.pbb a) →
      (s.cvWrite = none → step { s with pbb := m } = .next { t with pbb := m }) ∧
      (∀ a v, s.cvWrite = some (a, v) →
        step { s with pbb := m } = .next { t with pbb := memWrite pbbDefault m a v })) ∧
    (∀ image : Image, (s.run = false → image.w = s.img.w ∧ image.h = s.img.h) →
      (∀ x y, s.pxX = some x → s.pxY = some y → image.pixel x y = s.img.pixel x y) →
      step { s with img := image } = .next { t with img := image })
end

