-- ==== Sys2Proof/Laws/State.lean ====
section
/-! SUPPORT. One lemma per field per update of the state, so that no later proof unfolds a record update. -/

namespace Sys2Proof.Machine

@[simp] theorem State.writePbb_ls (a : Nat) (v : Byte) (s : State) : (s.writePbb a v).ls = s.ls := rfl
@[simp] theorem State.writePbb_status (a : Nat) (v : Byte) (s : State) : (s.writePbb a v).status = s.status := rfl
@[simp] theorem State.writePbb_run (a : Nat) (v : Byte) (s : State) : (s.writePbb a v).run = s.run := rfl
@[simp] theorem State.writePbb_seq (a : Nat) (v : Byte) (s : State) : (s.writePbb a v).seq = s.seq := rfl
@[simp] theorem State.writePbb_dp (a : Nat) (v : Byte) (s : State) : (s.writePbb a v).dp = s.dp := rfl
@[simp] theorem State.writePbb_operands (a : Nat) (v : Byte) (s : State) : (s.writePbb a v).operands = s.operands := rfl
@[simp] theorem State.writePbb_lines (a : Nat) (v : Byte) (s : State) : (s.writePbb a v).lines = s.lines := rfl
@[simp] theorem State.writePbb_tr (a : Nat) (v : Byte) (s : State) : (s.writePbb a v).tr = s.tr := rfl
@[simp] theorem State.writePbb_opDone (a : Nat) (v : Byte) (s : State) : (s.writePbb a v).opDone = s.opDone := rfl
@[simp] theorem State.writePbb_port (a : Nat) (v : Byte) (s : State) : (s.writePbb a v).port = s.port := rfl
@[simp] theorem State.writePbb_img (a : Nat) (v : Byte) (s : State) : (s.writePbb a v).img = s.img := rfl
@[simp] theorem State.writePbb_pbb (a : Nat) (v : Byte) (s : State) : (s.writePbb a v).pbb = memWrite pbbDefault s.pbb a v := rfl
@[simp] theorem State.writePbb_busy (a : Nat) (v : Byte) (s : State) : (s.writePbb a v).busy = s.busy := rfl
@[simp] theorem State.writePbb_faults (a : Nat) (v : Byte) (s : State) : (s.writePbb a v).faults = s.faults := rfl
@[simp] theorem State.writePbb_freeCtr (a : Nat) (v : Byte) (s : State) : (s.writePbb a v).freeCtr = s.freeCtr := rfl
@[simp] theorem State.writePbb_cfg (a : Nat) (v : Byte) (s : State) : (s.writePbb a v).cfg = s.cfg := rfl

@[simp] theorem State.goto_ls (op : Op) (ph : Phase) (k : Nat) (s : State) : (s.goto op ph k).ls = s.ls := rfl
@[simp] theorem State.goto_status (op : Op) (ph : Phase) (k : Nat) (s : State) : (s.goto op ph k).status = s.status := rfl
@[simp] theorem State.goto_run (op : Op) (ph : Phase) (k : Nat) (s : State) : (s.goto op ph k).run = s.run := rfl
@[simp] theorem State.goto_seq (op : Op) (ph : Phase) (k : Nat) (s : State) : (s.goto op ph k).seq = .pos op ph k := rfl
@[simp] theorem State.goto_dp (op : Op) (ph : Phase) (k : Nat) (s : State) : (s.goto op ph k).dp = s.dp := rfl
@[simp] theorem State.goto_operands (op : Op) (ph : Phase) (k : Nat) (s : State) : (s.goto op ph k).operands = s.operands := rfl
@[simp] theorem State.goto_lines (op : Op) (ph : Phase) (k : Nat) (s : State) : (s.goto op ph k).lines = s.lines := rfl
@[simp] theorem State.goto_tr (op : Op) (ph : Phase) (k : Nat) (s : State) : (s.goto op ph k).tr = s.tr := rfl
@[simp] theorem State.goto_opDone (op : Op) (ph : Phase) (k : Nat) (s : State) : (s.goto op ph k).opDone = s.opDone := rfl
@[simp] theorem State.goto_port (op : Op) (ph : Phase) (k : Nat) (s : State) : (s.goto op ph k).port = s.port := rfl
@[simp] theorem State.goto_img (op : Op) (ph : Phase) (k : Nat) (s : State) : (s.goto op ph k).img = s.img := rfl
@[simp] theorem State.goto_pbb (op : Op) (ph : Phase) (k : Nat) (s : State) : (s.goto op ph k).pbb = s.pbb := rfl
@[simp] theorem State.goto_busy (op : Op) (ph : Phase) (k : Nat) (s : State) : (s.goto op ph k).busy = s.busy := rfl
@[simp] theorem State.goto_faults (op : Op) (ph : Phase) (k : Nat) (s : State) : (s.goto op ph k).faults = s.faults := rfl
@[simp] theorem State.goto_freeCtr (op : Op) (ph : Phase) (k : Nat) (s : State) : (s.goto op ph k).freeCtr = s.freeCtr := rfl
@[simp] theorem State.goto_cfg (op : Op) (ph : Phase) (k : Nat) (s : State) : (s.goto op ph k).cfg = s.cfg := rfl

@[simp] theorem State.setLs_ls (v : Lifecycle) (s : State) : (s.setLs v).ls = v := rfl
@[simp] theorem State.setLs_status (v : Lifecycle) (s : State) : (s.setLs v).status = s.status := rfl
@[simp] theorem State.setLs_run (v : Lifecycle) (s : State) : (s.setLs v).run = s.run := rfl
@[simp] theorem State.setLs_seq (v : Lifecycle) (s : State) : (s.setLs v).seq = s.seq := rfl
@[simp] theorem State.setLs_dp (v : Lifecycle) (s : State) : (s.setLs v).dp = s.dp := rfl
@[simp] theorem State.setLs_operands (v : Lifecycle) (s : State) : (s.setLs v).operands = s.operands := rfl
@[simp] theorem State.setLs_lines (v : Lifecycle) (s : State) : (s.setLs v).lines = s.lines := rfl
@[simp] theorem State.setLs_tr (v : Lifecycle) (s : State) : (s.setLs v).tr = s.tr := rfl
@[simp] theorem State.setLs_opDone (v : Lifecycle) (s : State) : (s.setLs v).opDone = s.opDone := rfl
@[simp] theorem State.setLs_port (v : Lifecycle) (s : State) : (s.setLs v).port = s.port := rfl
@[simp] theorem State.setLs_img (v : Lifecycle) (s : State) : (s.setLs v).img = s.img := rfl
@[simp] theorem State.setLs_pbb (v : Lifecycle) (s : State) : (s.setLs v).pbb = s.pbb := rfl
@[simp] theorem State.setLs_busy (v : Lifecycle) (s : State) : (s.setLs v).busy = s.busy := rfl
@[simp] theorem State.setLs_faults (v : Lifecycle) (s : State) : (s.setLs v).faults = s.faults := rfl
@[simp] theorem State.setLs_freeCtr (v : Lifecycle) (s : State) : (s.setLs v).freeCtr = s.freeCtr := rfl
@[simp] theorem State.setLs_cfg (v : Lifecycle) (s : State) : (s.setLs v).cfg = s.cfg := rfl

@[simp] theorem State.setDp_ls (d : Datapath) (s : State) : (s.setDp d).ls = s.ls := rfl
@[simp] theorem State.setDp_status (d : Datapath) (s : State) : (s.setDp d).status = s.status := rfl
@[simp] theorem State.setDp_run (d : Datapath) (s : State) : (s.setDp d).run = s.run := rfl
@[simp] theorem State.setDp_seq (d : Datapath) (s : State) : (s.setDp d).seq = s.seq := rfl
@[simp] theorem State.setDp_dp (d : Datapath) (s : State) : (s.setDp d).dp = d := rfl
@[simp] theorem State.setDp_operands (d : Datapath) (s : State) : (s.setDp d).operands = s.operands := rfl
@[simp] theorem State.setDp_lines (d : Datapath) (s : State) : (s.setDp d).lines = s.lines := rfl
@[simp] theorem State.setDp_tr (d : Datapath) (s : State) : (s.setDp d).tr = s.tr := rfl
@[simp] theorem State.setDp_opDone (d : Datapath) (s : State) : (s.setDp d).opDone = s.opDone := rfl
@[simp] theorem State.setDp_port (d : Datapath) (s : State) : (s.setDp d).port = s.port := rfl
@[simp] theorem State.setDp_img (d : Datapath) (s : State) : (s.setDp d).img = s.img := rfl
@[simp] theorem State.setDp_pbb (d : Datapath) (s : State) : (s.setDp d).pbb = s.pbb := rfl
@[simp] theorem State.setDp_busy (d : Datapath) (s : State) : (s.setDp d).busy = s.busy := rfl
@[simp] theorem State.setDp_faults (d : Datapath) (s : State) : (s.setDp d).faults = s.faults := rfl
@[simp] theorem State.setDp_freeCtr (d : Datapath) (s : State) : (s.setDp d).freeCtr = s.freeCtr := rfl
@[simp] theorem State.setDp_cfg (d : Datapath) (s : State) : (s.setDp d).cfg = s.cfg := rfl

@[simp] theorem State.record_ls (e : Event) (s : State) : (s.record e).ls = s.ls := rfl
@[simp] theorem State.record_status (e : Event) (s : State) : (s.record e).status = s.status := rfl
@[simp] theorem State.record_run (e : Event) (s : State) : (s.record e).run = s.run := rfl
@[simp] theorem State.record_seq (e : Event) (s : State) : (s.record e).seq = s.seq := rfl
@[simp] theorem State.record_dp (e : Event) (s : State) : (s.record e).dp = s.dp := rfl
@[simp] theorem State.record_operands (e : Event) (s : State) : (s.record e).operands = s.operands := rfl
@[simp] theorem State.record_lines (e : Event) (s : State) : (s.record e).lines = s.lines := rfl
@[simp] theorem State.record_tr (e : Event) (s : State) : (s.record e).tr = s.tr ++ [e] := rfl
@[simp] theorem State.record_opDone (e : Event) (s : State) : (s.record e).opDone = s.opDone := rfl
@[simp] theorem State.record_port (e : Event) (s : State) : (s.record e).port = s.port := rfl
@[simp] theorem State.record_img (e : Event) (s : State) : (s.record e).img = s.img := rfl
@[simp] theorem State.record_pbb (e : Event) (s : State) : (s.record e).pbb = s.pbb := rfl
@[simp] theorem State.record_busy (e : Event) (s : State) : (s.record e).busy = s.busy := rfl
@[simp] theorem State.record_faults (e : Event) (s : State) : (s.record e).faults = s.faults := rfl
@[simp] theorem State.record_freeCtr (e : Event) (s : State) : (s.record e).freeCtr = s.freeCtr := rfl
@[simp] theorem State.record_cfg (e : Event) (s : State) : (s.record e).cfg = s.cfg := rfl

@[simp] theorem State.clearDone_ls (s : State) : (s.clearDone).ls = s.ls := rfl
@[simp] theorem State.clearDone_status (s : State) : (s.clearDone).status = s.status := rfl
@[simp] theorem State.clearDone_run (s : State) : (s.clearDone).run = s.run := rfl
@[simp] theorem State.clearDone_seq (s : State) : (s.clearDone).seq = s.seq := rfl
@[simp] theorem State.clearDone_dp (s : State) : (s.clearDone).dp = s.dp := rfl
@[simp] theorem State.clearDone_operands (s : State) : (s.clearDone).operands = s.operands := rfl
@[simp] theorem State.clearDone_lines (s : State) : (s.clearDone).lines = s.lines := rfl
@[simp] theorem State.clearDone_tr (s : State) : (s.clearDone).tr = s.tr := rfl
@[simp] theorem State.clearDone_opDone (s : State) : (s.clearDone).opDone = false := rfl
@[simp] theorem State.clearDone_port (s : State) : (s.clearDone).port = s.port := rfl
@[simp] theorem State.clearDone_img (s : State) : (s.clearDone).img = s.img := rfl
@[simp] theorem State.clearDone_pbb (s : State) : (s.clearDone).pbb = s.pbb := rfl
@[simp] theorem State.clearDone_busy (s : State) : (s.clearDone).busy = s.busy := rfl
@[simp] theorem State.clearDone_faults (s : State) : (s.clearDone).faults = s.faults := rfl
@[simp] theorem State.clearDone_freeCtr (s : State) : (s.clearDone).freeCtr = s.freeCtr := rfl
@[simp] theorem State.clearDone_cfg (s : State) : (s.clearDone).cfg = s.cfg := rfl

@[simp] theorem State.takeAnswer_ls (s : State) : (s.takeAnswer).ls = s.ls := rfl
@[simp] theorem State.takeAnswer_status (s : State) : (s.takeAnswer).status = s.status := rfl
@[simp] theorem State.takeAnswer_run (s : State) : (s.takeAnswer).run = s.run := rfl
@[simp] theorem State.takeAnswer_seq (s : State) : (s.takeAnswer).seq = s.seq := rfl
@[simp] theorem State.takeAnswer_dp (s : State) : (s.takeAnswer).dp = s.dp := rfl
@[simp] theorem State.takeAnswer_operands (s : State) : (s.takeAnswer).operands = s.operands := rfl
@[simp] theorem State.takeAnswer_lines (s : State) : (s.takeAnswer).lines = s.lines := rfl
@[simp] theorem State.takeAnswer_tr (s : State) : (s.takeAnswer).tr = s.tr := rfl
@[simp] theorem State.takeAnswer_opDone (s : State) : (s.takeAnswer).opDone = s.opDone := rfl
@[simp] theorem State.takeAnswer_port (s : State) : (s.takeAnswer).port = s.port := rfl
@[simp] theorem State.takeAnswer_img (s : State) : (s.takeAnswer).img = s.img := rfl
@[simp] theorem State.takeAnswer_pbb (s : State) : (s.takeAnswer).pbb = s.pbb := rfl
@[simp] theorem State.takeAnswer_busy (s : State) : (s.takeAnswer).busy = s.busy := rfl
@[simp] theorem State.takeAnswer_faults (s : State) : (s.takeAnswer).faults = s.faults.tail := rfl
@[simp] theorem State.takeAnswer_freeCtr (s : State) : (s.takeAnswer).freeCtr = s.freeCtr := rfl
@[simp] theorem State.takeAnswer_cfg (s : State) : (s.takeAnswer).cfg = s.cfg := rfl

@[simp] theorem State.takeSample_ls (s : State) : (s.takeSample).ls = s.ls := rfl
@[simp] theorem State.takeSample_status (s : State) : (s.takeSample).status = s.status := rfl
@[simp] theorem State.takeSample_run (s : State) : (s.takeSample).run = s.run := rfl
@[simp] theorem State.takeSample_seq (s : State) : (s.takeSample).seq = s.seq := rfl
@[simp] theorem State.takeSample_dp (s : State) : (s.takeSample).dp = s.dp := rfl
@[simp] theorem State.takeSample_operands (s : State) : (s.takeSample).operands = s.operands := rfl
@[simp] theorem State.takeSample_lines (s : State) : (s.takeSample).lines = s.lines := rfl
@[simp] theorem State.takeSample_tr (s : State) : (s.takeSample).tr = s.tr := rfl
@[simp] theorem State.takeSample_opDone (s : State) : (s.takeSample).opDone = s.opDone := rfl
@[simp] theorem State.takeSample_port (s : State) : (s.takeSample).port = s.port := rfl
@[simp] theorem State.takeSample_img (s : State) : (s.takeSample).img = s.img := rfl
@[simp] theorem State.takeSample_pbb (s : State) : (s.takeSample).pbb = s.pbb := rfl
@[simp] theorem State.takeSample_busy (s : State) : (s.takeSample).busy = s.busy.next := rfl
@[simp] theorem State.takeSample_faults (s : State) : (s.takeSample).faults = s.faults := rfl
@[simp] theorem State.takeSample_freeCtr (s : State) : (s.takeSample).freeCtr = s.freeCtr := rfl
@[simp] theorem State.takeSample_cfg (s : State) : (s.takeSample).cfg = s.cfg := rfl

@[simp] theorem State.driveLine_ls (line : Line) (l : Level) (s : State) : (s.driveLine line l).ls = s.ls := rfl
@[simp] theorem State.driveLine_status (line : Line) (l : Level) (s : State) : (s.driveLine line l).status = s.status := rfl
@[simp] theorem State.driveLine_run (line : Line) (l : Level) (s : State) : (s.driveLine line l).run = s.run := rfl
@[simp] theorem State.driveLine_seq (line : Line) (l : Level) (s : State) : (s.driveLine line l).seq = s.seq := rfl
@[simp] theorem State.driveLine_dp (line : Line) (l : Level) (s : State) : (s.driveLine line l).dp = s.dp := rfl
@[simp] theorem State.driveLine_operands (line : Line) (l : Level) (s : State) : (s.driveLine line l).operands = s.operands := rfl
@[simp] theorem State.driveLine_lines (line : Line) (l : Level) (s : State) : (s.driveLine line l).lines = s.lines.drive line l := rfl
@[simp] theorem State.driveLine_tr (line : Line) (l : Level) (s : State) : (s.driveLine line l).tr = s.tr := rfl
@[simp] theorem State.driveLine_opDone (line : Line) (l : Level) (s : State) : (s.driveLine line l).opDone = s.opDone := rfl
@[simp] theorem State.driveLine_port (line : Line) (l : Level) (s : State) : (s.driveLine line l).port = s.port := rfl
@[simp] theorem State.driveLine_img (line : Line) (l : Level) (s : State) : (s.driveLine line l).img = s.img := rfl
@[simp] theorem State.driveLine_pbb (line : Line) (l : Level) (s : State) : (s.driveLine line l).pbb = s.pbb := rfl
@[simp] theorem State.driveLine_busy (line : Line) (l : Level) (s : State) : (s.driveLine line l).busy = s.busy := rfl
@[simp] theorem State.driveLine_faults (line : Line) (l : Level) (s : State) : (s.driveLine line l).faults = s.faults := rfl
@[simp] theorem State.driveLine_freeCtr (line : Line) (l : Level) (s : State) : (s.driveLine line l).freeCtr = s.freeCtr := rfl
@[simp] theorem State.driveLine_cfg (line : Line) (l : Level) (s : State) : (s.driveLine line l).cfg = s.cfg := rfl

@[simp] theorem State.driveFailed_ls (line : Line) (l : Level) (s : State) : (s.driveFailed line l).ls = s.ls := rfl
@[simp] theorem State.driveFailed_status (line : Line) (l : Level) (s : State) : (s.driveFailed line l).status = s.status := rfl
@[simp] theorem State.driveFailed_run (line : Line) (l : Level) (s : State) : (s.driveFailed line l).run = s.run := rfl
@[simp] theorem State.driveFailed_seq (line : Line) (l : Level) (s : State) : (s.driveFailed line l).seq = s.seq := rfl
@[simp] theorem State.driveFailed_dp (line : Line) (l : Level) (s : State) : (s.driveFailed line l).dp = s.dp := rfl
@[simp] theorem State.driveFailed_operands (line : Line) (l : Level) (s : State) : (s.driveFailed line l).operands = s.operands := rfl
@[simp] theorem State.driveFailed_lines (line : Line) (l : Level) (s : State) : (s.driveFailed line l).lines = if Config.faultReached s.freeCtr then s.lines.drive line l else s.lines := rfl
@[simp] theorem State.driveFailed_tr (line : Line) (l : Level) (s : State) : (s.driveFailed line l).tr = s.tr := rfl
@[simp] theorem State.driveFailed_opDone (line : Line) (l : Level) (s : State) : (s.driveFailed line l).opDone = s.opDone := rfl
@[simp] theorem State.driveFailed_port (line : Line) (l : Level) (s : State) : (s.driveFailed line l).port = s.port := rfl
@[simp] theorem State.driveFailed_img (line : Line) (l : Level) (s : State) : (s.driveFailed line l).img = s.img := rfl
@[simp] theorem State.driveFailed_pbb (line : Line) (l : Level) (s : State) : (s.driveFailed line l).pbb = s.pbb := rfl
@[simp] theorem State.driveFailed_busy (line : Line) (l : Level) (s : State) : (s.driveFailed line l).busy = s.busy := rfl
@[simp] theorem State.driveFailed_faults (line : Line) (l : Level) (s : State) : (s.driveFailed line l).faults = s.faults := rfl
@[simp] theorem State.driveFailed_freeCtr (line : Line) (l : Level) (s : State) : (s.driveFailed line l).freeCtr = s.freeCtr + 1 := rfl
@[simp] theorem State.driveFailed_cfg (line : Line) (l : Level) (s : State) : (s.driveFailed line l).cfg = s.cfg := rfl

@[simp] theorem State.finish_ls (st : Status) (s : State) : (s.finish st).ls = s.ls := rfl
@[simp] theorem State.finish_status (st : Status) (s : State) : (s.finish st).status = st := rfl
@[simp] theorem State.finish_run (st : Status) (s : State) : (s.finish st).run = false := rfl
@[simp] theorem State.finish_seq (st : Status) (s : State) : (s.finish st).seq = .idle := rfl
@[simp] theorem State.finish_dp (st : Status) (s : State) : (s.finish st).dp = Datapath.empty := rfl
@[simp] theorem State.finish_operands (st : Status) (s : State) : (s.finish st).operands = s.operands := rfl
@[simp] theorem State.finish_lines (st : Status) (s : State) : (s.finish st).lines = s.lines := rfl
@[simp] theorem State.finish_tr (st : Status) (s : State) : (s.finish st).tr = s.tr := rfl
@[simp] theorem State.finish_opDone (st : Status) (s : State) : (s.finish st).opDone = true := rfl
@[simp] theorem State.finish_port (st : Status) (s : State) : (s.finish st).port = s.port := rfl
@[simp] theorem State.finish_img (st : Status) (s : State) : (s.finish st).img = s.img := rfl
@[simp] theorem State.finish_pbb (st : Status) (s : State) : (s.finish st).pbb = s.pbb := rfl
@[simp] theorem State.finish_busy (st : Status) (s : State) : (s.finish st).busy = s.busy := rfl
@[simp] theorem State.finish_faults (st : Status) (s : State) : (s.finish st).faults = s.faults := rfl
@[simp] theorem State.finish_freeCtr (st : Status) (s : State) : (s.finish st).freeCtr = s.freeCtr := rfl
@[simp] theorem State.finish_cfg (st : Status) (s : State) : (s.finish st).cfg = s.cfg := rfl

@[simp] theorem State.raise_ls (e : Status) (s : State) : (s.raise e).ls = s.ls := rfl
@[simp] theorem State.raise_status (e : Status) (s : State) : (s.raise e).status = e := rfl
@[simp] theorem State.raise_run (e : Status) (s : State) : (s.raise e).run = false := rfl
@[simp] theorem State.raise_seq (e : Status) (s : State) : (s.raise e).seq = .idle := rfl
@[simp] theorem State.raise_dp (e : Status) (s : State) : (s.raise e).dp = Datapath.empty := rfl
@[simp] theorem State.raise_operands (e : Status) (s : State) : (s.raise e).operands = s.operands := rfl
@[simp] theorem State.raise_lines (e : Status) (s : State) : (s.raise e).lines = s.lines := rfl
@[simp] theorem State.raise_tr (e : Status) (s : State) : (s.raise e).tr = s.tr := rfl
@[simp] theorem State.raise_opDone (e : Status) (s : State) : (s.raise e).opDone = true := rfl
@[simp] theorem State.raise_port (e : Status) (s : State) : (s.raise e).port = s.port := rfl
@[simp] theorem State.raise_img (e : Status) (s : State) : (s.raise e).img = s.img := rfl
@[simp] theorem State.raise_pbb (e : Status) (s : State) : (s.raise e).pbb = s.pbb := rfl
@[simp] theorem State.raise_busy (e : Status) (s : State) : (s.raise e).busy = s.busy := rfl
@[simp] theorem State.raise_faults (e : Status) (s : State) : (s.raise e).faults = s.faults := rfl
@[simp] theorem State.raise_freeCtr (e : Status) (s : State) : (s.raise e).freeCtr = s.freeCtr := rfl
@[simp] theorem State.raise_cfg (e : Status) (s : State) : (s.raise e).cfg = s.cfg := rfl

@[simp] theorem State.blockReset_ls (s : State) : (s.blockReset).ls = .unpowered := rfl
@[simp] theorem State.blockReset_status (s : State) : (s.blockReset).status = .ok := rfl
@[simp] theorem State.blockReset_run (s : State) : (s.blockReset).run = false := rfl
@[simp] theorem State.blockReset_seq (s : State) : (s.blockReset).seq = .idle := rfl
@[simp] theorem State.blockReset_dp (s : State) : (s.blockReset).dp = Datapath.empty := rfl
@[simp] theorem State.blockReset_operands (s : State) : (s.blockReset).operands = ⟨0, 0, 0⟩ := rfl
@[simp] theorem State.blockReset_lines (s : State) : (s.blockReset).lines = ⟨.undriven, .undriven, .undriven⟩ := rfl
@[simp] theorem State.blockReset_tr (s : State) : (s.blockReset).tr = [] := rfl
@[simp] theorem State.blockReset_opDone (s : State) : (s.blockReset).opDone = false := rfl
@[simp] theorem State.blockReset_port (s : State) : (s.blockReset).port = s.port := rfl
@[simp] theorem State.blockReset_img (s : State) : (s.blockReset).img = s.img := rfl
@[simp] theorem State.blockReset_pbb (s : State) : (s.blockReset).pbb = s.pbb := rfl
@[simp] theorem State.blockReset_busy (s : State) : (s.blockReset).busy = s.busy := rfl
@[simp] theorem State.blockReset_faults (s : State) : (s.blockReset).faults = s.faults := rfl
@[simp] theorem State.blockReset_freeCtr (s : State) : (s.blockReset).freeCtr = s.freeCtr := rfl
@[simp] theorem State.blockReset_cfg (s : State) : (s.blockReset).cfg = s.cfg := rfl

@[simp] theorem State.offeredOperands_len (s : State) : s.offeredOperands.len = s.port.bufLen := rfl
@[simp] theorem State.offeredOperands_w (s : State) : s.offeredOperands.w = s.img.w := rfl
@[simp] theorem State.offeredOperands_h (s : State) : s.offeredOperands.h = s.img.h := rfl

@[simp] theorem accept_ls (op : Op) (s : State) : (accept op s).ls = s.ls := rfl
@[simp] theorem accept_status (op : Op) (s : State) : (accept op s).status = s.status := rfl
@[simp] theorem accept_run (op : Op) (s : State) : (accept op s).run = true := rfl
@[simp] theorem accept_seq (op : Op) (s : State) : (accept op s).seq = .pos op op.firstPhase 0 := rfl
@[simp] theorem accept_dp (op : Op) (s : State) : (accept op s).dp = s.dp := rfl
@[simp] theorem accept_operands (op : Op) (s : State) : (accept op s).operands = s.offeredOperands := rfl
@[simp] theorem accept_lines (op : Op) (s : State) : (accept op s).lines = s.lines := rfl
@[simp] theorem accept_tr (op : Op) (s : State) : (accept op s).tr = s.tr := rfl
@[simp] theorem accept_opDone (op : Op) (s : State) : (accept op s).opDone = s.opDone := rfl
@[simp] theorem accept_port (op : Op) (s : State) : (accept op s).port = { s.port with opValid := false } := rfl
@[simp] theorem accept_img (op : Op) (s : State) : (accept op s).img = s.img := rfl
@[simp] theorem accept_pbb (op : Op) (s : State) : (accept op s).pbb = s.pbb := rfl
@[simp] theorem accept_busy (op : Op) (s : State) : (accept op s).busy = s.busy := rfl
@[simp] theorem accept_faults (op : Op) (s : State) : (accept op s).faults = s.faults := rfl
@[simp] theorem accept_freeCtr (op : Op) (s : State) : (accept op s).freeCtr = s.freeCtr := rfl
@[simp] theorem accept_cfg (op : Op) (s : State) : (accept op s).cfg = s.cfg := rfl

@[simp] theorem beginWait_ls (s : State) : (beginWait s).ls = s.ls := rfl
@[simp] theorem beginWait_status (s : State) : (beginWait s).status = s.status := rfl
@[simp] theorem beginWait_run (s : State) : (beginWait s).run = s.run := rfl
@[simp] theorem beginWait_seq (s : State) : (beginWait s).seq = s.seq := rfl
@[simp] theorem beginWait_dp (s : State) : (beginWait s).dp = { s.dp with pc := some 0 } := rfl
@[simp] theorem beginWait_operands (s : State) : (beginWait s).operands = s.operands := rfl
@[simp] theorem beginWait_lines (s : State) : (beginWait s).lines = s.lines := rfl
@[simp] theorem beginWait_tr (s : State) : (beginWait s).tr = s.tr := rfl
@[simp] theorem beginWait_opDone (s : State) : (beginWait s).opDone = s.opDone := rfl
@[simp] theorem beginWait_port (s : State) : (beginWait s).port = s.port := rfl
@[simp] theorem beginWait_img (s : State) : (beginWait s).img = s.img := rfl
@[simp] theorem beginWait_pbb (s : State) : (beginWait s).pbb = s.pbb := rfl
@[simp] theorem beginWait_busy (s : State) : (beginWait s).busy = s.busy := rfl
@[simp] theorem beginWait_faults (s : State) : (beginWait s).faults = s.faults := rfl
@[simp] theorem beginWait_freeCtr (s : State) : (beginWait s).freeCtr = s.freeCtr := rfl
@[simp] theorem beginWait_cfg (s : State) : (beginWait s).cfg = s.cfg := rfl

@[simp] theorem endWait_ls (s : State) : (endWait s).ls = s.ls := rfl
@[simp] theorem endWait_status (s : State) : (endWait s).status = s.status := rfl
@[simp] theorem endWait_run (s : State) : (endWait s).run = s.run := rfl
@[simp] theorem endWait_seq (s : State) : (endWait s).seq = s.seq := rfl
@[simp] theorem endWait_dp (s : State) : (endWait s).dp = { s.dp with pc := none } := rfl
@[simp] theorem endWait_operands (s : State) : (endWait s).operands = s.operands := rfl
@[simp] theorem endWait_lines (s : State) : (endWait s).lines = s.lines := rfl
@[simp] theorem endWait_tr (s : State) : (endWait s).tr = s.tr := rfl
@[simp] theorem endWait_opDone (s : State) : (endWait s).opDone = s.opDone := rfl
@[simp] theorem endWait_port (s : State) : (endWait s).port = s.port := rfl
@[simp] theorem endWait_img (s : State) : (endWait s).img = s.img := rfl
@[simp] theorem endWait_pbb (s : State) : (endWait s).pbb = s.pbb := rfl
@[simp] theorem endWait_busy (s : State) : (endWait s).busy = s.busy := rfl
@[simp] theorem endWait_faults (s : State) : (endWait s).faults = s.faults := rfl
@[simp] theorem endWait_freeCtr (s : State) : (endWait s).freeCtr = s.freeCtr := rfl
@[simp] theorem endWait_cfg (s : State) : (endWait s).cfg = s.cfg := rfl

@[simp] theorem countLow_ls (n : Nat) (s : State) : (countLow n s).ls = s.ls := rfl
@[simp] theorem countLow_status (n : Nat) (s : State) : (countLow n s).status = s.status := rfl
@[simp] theorem countLow_run (n : Nat) (s : State) : (countLow n s).run = s.run := rfl
@[simp] theorem countLow_seq (n : Nat) (s : State) : (countLow n s).seq = s.seq := rfl
@[simp] theorem countLow_dp (n : Nat) (s : State) : (countLow n s).dp = { s.dp with pc := some (n + 1) } := rfl
@[simp] theorem countLow_operands (n : Nat) (s : State) : (countLow n s).operands = s.operands := rfl
@[simp] theorem countLow_lines (n : Nat) (s : State) : (countLow n s).lines = s.lines := rfl
@[simp] theorem countLow_tr (n : Nat) (s : State) : (countLow n s).tr = s.tr := rfl
@[simp] theorem countLow_opDone (n : Nat) (s : State) : (countLow n s).opDone = s.opDone := rfl
@[simp] theorem countLow_port (n : Nat) (s : State) : (countLow n s).port = s.port := rfl
@[simp] theorem countLow_img (n : Nat) (s : State) : (countLow n s).img = s.img := rfl
@[simp] theorem countLow_pbb (n : Nat) (s : State) : (countLow n s).pbb = s.pbb := rfl
@[simp] theorem countLow_busy (n : Nat) (s : State) : (countLow n s).busy = s.busy := rfl
@[simp] theorem countLow_faults (n : Nat) (s : State) : (countLow n s).faults = s.faults := rfl
@[simp] theorem countLow_freeCtr (n : Nat) (s : State) : (countLow n s).freeCtr = s.freeCtr := rfl
@[simp] theorem countLow_cfg (n : Nat) (s : State) : (countLow n s).cfg = s.cfg := rfl

@[simp] theorem setPair_ls (pp : Nat) (s : State) : (setPair pp s).ls = s.ls := rfl
@[simp] theorem setPair_status (pp : Nat) (s : State) : (setPair pp s).status = s.status := rfl
@[simp] theorem setPair_run (pp : Nat) (s : State) : (setPair pp s).run = s.run := rfl
@[simp] theorem setPair_seq (pp : Nat) (s : State) : (setPair pp s).seq = s.seq := rfl
@[simp] theorem setPair_dp (pp : Nat) (s : State) : (setPair pp s).dp = { s.dp with pp := some pp } := rfl
@[simp] theorem setPair_operands (pp : Nat) (s : State) : (setPair pp s).operands = s.operands := rfl
@[simp] theorem setPair_lines (pp : Nat) (s : State) : (setPair pp s).lines = s.lines := rfl
@[simp] theorem setPair_tr (pp : Nat) (s : State) : (setPair pp s).tr = s.tr := rfl
@[simp] theorem setPair_opDone (pp : Nat) (s : State) : (setPair pp s).opDone = s.opDone := rfl
@[simp] theorem setPair_port (pp : Nat) (s : State) : (setPair pp s).port = s.port := rfl
@[simp] theorem setPair_img (pp : Nat) (s : State) : (setPair pp s).img = s.img := rfl
@[simp] theorem setPair_pbb (pp : Nat) (s : State) : (setPair pp s).pbb = s.pbb := rfl
@[simp] theorem setPair_busy (pp : Nat) (s : State) : (setPair pp s).busy = s.busy := rfl
@[simp] theorem setPair_faults (pp : Nat) (s : State) : (setPair pp s).faults = s.faults := rfl
@[simp] theorem setPair_freeCtr (pp : Nat) (s : State) : (setPair pp s).freeCtr = s.freeCtr := rfl
@[simp] theorem setPair_cfg (pp : Nat) (s : State) : (setPair pp s).cfg = s.cfg := rfl

@[simp] theorem loadInv_ls (b : Byte) (s : State) : (loadInv b s).ls = s.ls := rfl
@[simp] theorem loadInv_status (b : Byte) (s : State) : (loadInv b s).status = s.status := rfl
@[simp] theorem loadInv_run (b : Byte) (s : State) : (loadInv b s).run = s.run := rfl
@[simp] theorem loadInv_seq (b : Byte) (s : State) : (loadInv b s).seq = s.seq := rfl
@[simp] theorem loadInv_dp (b : Byte) (s : State) : (loadInv b s).dp = { s.dp with inv := some (~~~b) } := rfl
@[simp] theorem loadInv_operands (b : Byte) (s : State) : (loadInv b s).operands = s.operands := rfl
@[simp] theorem loadInv_lines (b : Byte) (s : State) : (loadInv b s).lines = s.lines := rfl
@[simp] theorem loadInv_tr (b : Byte) (s : State) : (loadInv b s).tr = s.tr := rfl
@[simp] theorem loadInv_opDone (b : Byte) (s : State) : (loadInv b s).opDone = s.opDone := rfl
@[simp] theorem loadInv_port (b : Byte) (s : State) : (loadInv b s).port = s.port := rfl
@[simp] theorem loadInv_img (b : Byte) (s : State) : (loadInv b s).img = s.img := rfl
@[simp] theorem loadInv_pbb (b : Byte) (s : State) : (loadInv b s).pbb = s.pbb := rfl
@[simp] theorem loadInv_busy (b : Byte) (s : State) : (loadInv b s).busy = s.busy := rfl
@[simp] theorem loadInv_faults (b : Byte) (s : State) : (loadInv b s).faults = s.faults := rfl
@[simp] theorem loadInv_freeCtr (b : Byte) (s : State) : (loadInv b s).freeCtr = s.freeCtr := rfl
@[simp] theorem loadInv_cfg (b : Byte) (s : State) : (loadInv b s).cfg = s.cfg := rfl

@[simp] theorem beginConvert_ls (s : State) : (beginConvert s).ls = s.ls := rfl
@[simp] theorem beginConvert_status (s : State) : (beginConvert s).status = s.status := rfl
@[simp] theorem beginConvert_run (s : State) : (beginConvert s).run = s.run := rfl
@[simp] theorem beginConvert_seq (s : State) : (beginConvert s).seq = s.seq := rfl
@[simp] theorem beginConvert_dp (s : State) : (beginConvert s).dp = { s.dp with ci := some 0, cj := some 0, acc := some 0#8 } := rfl
@[simp] theorem beginConvert_operands (s : State) : (beginConvert s).operands = s.operands := rfl
@[simp] theorem beginConvert_lines (s : State) : (beginConvert s).lines = s.lines := rfl
@[simp] theorem beginConvert_tr (s : State) : (beginConvert s).tr = s.tr := rfl
@[simp] theorem beginConvert_opDone (s : State) : (beginConvert s).opDone = s.opDone := rfl
@[simp] theorem beginConvert_port (s : State) : (beginConvert s).port = s.port := rfl
@[simp] theorem beginConvert_img (s : State) : (beginConvert s).img = s.img := rfl
@[simp] theorem beginConvert_pbb (s : State) : (beginConvert s).pbb = s.pbb := rfl
@[simp] theorem beginConvert_busy (s : State) : (beginConvert s).busy = s.busy := rfl
@[simp] theorem beginConvert_faults (s : State) : (beginConvert s).faults = s.faults := rfl
@[simp] theorem beginConvert_freeCtr (s : State) : (beginConvert s).freeCtr = s.freeCtr := rfl
@[simp] theorem beginConvert_cfg (s : State) : (beginConvert s).cfg = s.cfg := rfl

end Sys2Proof.Machine
end

