-- ==== Sys2Proof/Laws/Transport.lean ====
section
/-! SUPPORT. Once for each transport primitive, what it can do; and the meaning of every instruction that is one primitive. -/

namespace Sys2Proof.Machine

open Host

/-! ### The fault oracle's answers -/

theorem faultNext_eq_false {n : Nat} {s : State} (h : NextOk (n + 1) s) : s.faultNext = false := by
  unfold State.faultNext
  unfold NextOk at h
  rcases hf : s.faults with _ | ⟨a, rest⟩
  · rfl
  · have := h a (by simp [hf])
    subst this
    rfl

theorem nextOk_tail {n : Nat} {s t : State} (h : NextOk (n + 1) s) (ht : t.faults = s.faults.tail) : NextOk n t := by
  intro a ha
  apply h a
  rw [ht] at ha
  cases hf : s.faults with
  | nil => simp [hf] at ha
  | cons b rest =>
    rw [hf] at ha
    simp only [List.tail_cons] at ha
    simp [ha]

theorem nextOk_drop {n m : Nat} {s t : State} (h : NextOk (n + m) s) (ht : t.faults = s.faults.drop n) : NextOk m t := by
  intro a ha
  apply h a
  rw [ht, List.take_drop] at ha
  exact List.mem_of_mem_drop ha

theorem nextOk_of_noTransportFault {n : Nat} {s : State} (h : NoTransportFault s) : NextOk n s :=
  fun a ha => h a (List.mem_of_mem_take ha)

theorem noTransportFault_drop {n : Nat} {s t : State} (h : NoTransportFault s) (ht : t.faults = s.faults.drop n) :
    NoTransportFault t := by
  intro a ha
  rw [ht] at ha
  exact h a (List.mem_of_mem_drop ha)

theorem noTransportFault_congr {s t : State} (h : NoTransportFault s) (ht : t.faults = s.faults) :
    NoTransportFault t := by
  intro a ha
  rw [ht] at ha
  exact h a ha

/-! ### What a primitive leaves alone -/

/-- No primitive writes these fields. -/
structure SameControl (s t : State) : Prop where
  ls : t.ls = s.ls
  status : t.status = s.status
  run : t.run = s.run
  seq : t.seq = s.seq
  dp : t.dp = s.dp
  opDone : t.opDone = s.opDone
  operands : t.operands = s.operands
  port : t.port = s.port
  img : t.img = s.img
  pbb : t.pbb = s.pbb
  cfg : t.cfg = s.cfg

theorem SameControl.refl (s : State) : SameControl s s := ⟨rfl, rfl, rfl, rfl, rfl, rfl, rfl, rfl, rfl, rfl, rfl⟩

theorem SameControl.trans {s t u : State} (h : SameControl s t) (k : SameControl t u) : SameControl s u :=
  ⟨k.ls.trans h.ls, k.status.trans h.status, k.run.trans h.run, k.seq.trans h.seq, k.dp.trans h.dp,
    k.opDone.trans h.opDone, k.operands.trans h.operands, k.port.trans h.port, k.img.trans h.img, k.pbb.trans h.pbb, k.cfg.trans h.cfg⟩

theorem driveEffect_same (line : Line) (l : Level) (s : State) : SameControl s (driveEffect line l s).st := by
  unfold driveEffect
  split <;> exact ⟨rfl, rfl, rfl, rfl, rfl, rfl, rfl, rfl, rfl, rfl, rfl⟩

theorem driveEffect_tr (line : Line) (l : Level) (s : State) : (driveEffect line l s).st.tr = s.tr := by
  unfold driveEffect
  split <;> rfl

theorem driveEffect_busy (line : Line) (l : Level) (s : State) : (driveEffect line l s).st.busy = s.busy := by
  unfold driveEffect
  split <;> rfl

theorem transferEffect_same (s : State) : SameControl s (transferEffect s).st :=
  ⟨rfl, rfl, rfl, rfl, rfl, rfl, rfl, rfl, rfl, rfl, rfl⟩

/-! ### `SetLine`, `ReadLine`, `Delay` -/

theorem setLine_same (line : Line) (l : Level) (s : State) : SameControl s (setLine line l s).st := by
  unfold setLine
  dsimp only
  split <;> exact (driveEffect_same line l s).trans ⟨rfl, rfl, rfl, rfl, rfl, rfl, rfl, rfl, rfl, rfl, rfl⟩

theorem setLine_busy (line : Line) (l : Level) (s : State) : (setLine line l s).st.busy = s.busy := by
  unfold setLine
  dsimp only
  split <;> exact driveEffect_busy line l s

theorem setLine_tr (line : Line) (l : Level) (s : State) :
    (setLine line l s).st.tr =
      s.tr ++ [.setLine line l (if (setLine line l s).ok then .ok else .failed)] := by
  unfold setLine driveEffect
  cases s.faultNext <;> rfl

/-- A drive that is not answered `fault`. -/
theorem setLine_ok {line : Line} {l : Level} {s : State} (h : s.faultNext = false) :
    setLine line l s = ⟨true, (s.takeAnswer.driveLine line l).record (.setLine line l .ok)⟩ := by
  simp [setLine, driveEffect, h]

/-- A drive that is answered `fault`. -/
theorem setLine_fault {line : Line} {l : Level} {s : State} (h : s.faultNext = true) :
    setLine line l s = ⟨false, (s.takeAnswer.driveFailed line l).record (.setLine line l .failed)⟩ := by
  simp [setLine, driveEffect, h]

theorem readBusy_same (s : State) : SameControl s (readBusy s).st := by
  unfold readBusy
  split <;> exact ⟨rfl, rfl, rfl, rfl, rfl, rfl, rfl, rfl, rfl, rfl, rfl⟩

theorem readBusy_tr (s : State) :
    (readBusy s).st.tr =
      s.tr ++ [.readBusy (if (readBusy s).ok then .level s.busy.level else .failed)] := by
  unfold readBusy
  split <;> rfl

theorem readBusy_lines (s : State) : (readBusy s).st.lines = s.lines := by
  unfold readBusy
  split <;> rfl

/-- A sample that is not answered `fault`. -/
theorem readBusy_ok {s : State} (h : s.faultNext = false) :
    readBusy s = ⟨true, s.takeAnswer.takeSample.record (.readBusy (.level s.busy.level))⟩ := by
  simp [readBusy, h]

/-- A sample that is answered `fault`. -/
theorem readBusy_fault {s : State} (h : s.faultNext = true) :
    readBusy s = ⟨false, s.takeAnswer.record (.readBusy .failed)⟩ := by
  simp [readBusy, h]

theorem delay_same (ms : Nat) (s : State) : SameControl s (delay ms s).st :=
  ⟨rfl, rfl, rfl, rfl, rfl, rfl, rfl, rfl, rfl, rfl, rfl⟩

/-! ### `TransmitByte` -/

/-- What one effect of a frame can do: it happens, or the frame ends there with its element marked. -/
theorem frameEffect_cases (kind : Kind) (value : Byte) (stage : TxStage) (f : State → Attempt) (s : State) :
    ((f s).ok = true ∧ frameEffect kind value stage f s = f s) ∨
      ((f s).ok = false ∧
        frameEffect kind value stage f s = ⟨false, (f s).st.record (.tx kind value (.failedAt stage))⟩) := by
  unfold frameEffect
  dsimp only
  cases h : (f s).ok with
  | true => exact .inl ⟨rfl, rfl⟩
  | false => exact .inr ⟨rfl, rfl⟩

/-- What a part of a frame leaves: nothing of the control state is written; the frame goes on with TR unchanged, or it has
ended with one element, marked failed. -/
structure FramePart (kind : Kind) (value : Byte) (s : State) (a : Attempt) : Prop where
  same : SameControl s a.st
  busy : a.st.busy = s.busy
  tr : (a.ok = true ∧ a.st.tr = s.tr) ∨
    (a.ok = false ∧ ∃ stage, a.st.tr = s.tr ++ [.tx kind value (.failedAt stage)])

theorem framePart_effect {kind : Kind} {value : Byte} {stage : TxStage} {f : State → Attempt} {s : State}
    (hs : SameControl s (f s).st) (hb : (f s).st.busy = s.busy) (ht : (f s).st.tr = s.tr) :
    FramePart kind value s (frameEffect kind value stage f s) := by
  rcases frameEffect_cases kind value stage f s with ⟨h, e⟩ | ⟨h, e⟩
  · rw [e]; exact ⟨hs, hb, .inl ⟨h, ht⟩⟩
  · rw [e]
    refine ⟨hs.trans ⟨rfl, rfl, rfl, rfl, rfl, rfl, rfl, rfl, rfl, rfl, rfl⟩, hb, .inr ⟨rfl, stage, ?_⟩⟩
    simp [ht]

theorem framePart_andThen {kind : Kind} {value : Byte} {s : State} {a : Attempt} {f : State → Attempt}
    (ha : FramePart kind value s a) (hf : FramePart kind value a.st (f a.st)) :
    FramePart kind value s (a.andThen f) := by
  obtain ⟨ok, st⟩ := a
  cases ok with
  | false => exact ha
  | true =>
    obtain ⟨h1, h2, h3⟩ := ha
    simp only [reduceCtorEq, false_and, or_false, true_and] at h3
    refine ⟨h1.trans hf.same, hf.busy.trans h2, ?_⟩
    have := hf.tr
    simp only [h3] at this
    exact this

/-- What a frame does in every case: the control state and the BUSY input are as they were, and TR has grown by one
element, the frame, marked with how it went. -/
theorem transmitByte_spec (kind : Kind) (value : Byte) (s : State) :
    SameControl s (transmitByte kind value s).st ∧ (transmitByte kind value s).st.busy = s.busy ∧
      (((transmitByte kind value s).ok = true ∧
          (transmitByte kind value s).st.tr = s.tr ++ [.tx kind value .ok]) ∨
        ((transmitByte kind value s).ok = false ∧
          ∃ stage, (transmitByte kind value s).st.tr = s.tr ++ [.tx kind value (.failedAt stage)])) := by
  unfold transmitByte
  have p1 : FramePart kind value s (frameEffect kind value .select (driveEffect .dc (kindLevel s.cfg kind)) s) :=
    framePart_effect (driveEffect_same _ _ _) (driveEffect_busy _ _ _) (driveEffect_tr _ _ _)
  have p2 := framePart_andThen p1
    (f := frameEffect kind value .chipActive (driveEffect .cs s.cfg.csActiveLevel))
    (framePart_effect (driveEffect_same _ _ _) (driveEffect_busy _ _ _) (driveEffect_tr _ _ _))
  have p3 := framePart_andThen p2 (f := frameEffect kind value .transfer transferEffect)
    (framePart_effect (transferEffect_same _) rfl rfl)
  have p4 := framePart_andThen p3
    (f := frameEffect kind value .chipInactive (driveEffect .cs s.cfg.csActiveLevel.opposite))
    (framePart_effect (driveEffect_same _ _ _) (driveEffect_busy _ _ _) (driveEffect_tr _ _ _))
  revert p4
  generalize Attempt.andThen _ (frameEffect kind value .chipInactive _) = a
  intro p4
  obtain ⟨ok, st⟩ := a
  obtain ⟨h1, h2, h3⟩ := p4
  cases ok with
  | false =>
    rcases h3 with ⟨h, _⟩ | ⟨_, h⟩
    · cases h
    · exact ⟨h1, h2, .inr ⟨rfl, h⟩⟩
  | true =>
    simp only [reduceCtorEq, false_and, or_false, true_and] at h3
    simp only [Attempt.andThen]
    refine ⟨h1.trans ⟨rfl, rfl, rfl, rfl, rfl, rfl, rfl, rfl, rfl, rfl, rfl⟩, h2, .inl ⟨trivial, ?_⟩⟩
    simp [h3]

/-- A frame none of whose four effects is answered `fault`. -/
theorem transmitByte_ok {kind : Kind} {value : Byte} {s : State} (h : NextOk 4 s) :
    transmitByte kind value s = ⟨true, afterFrame kind value s⟩ := by
  have h1 := faultNext_eq_false h
  have h2 : (s.takeAnswer.driveLine .dc (kindLevel s.cfg kind)).faultNext = false :=
    faultNext_eq_false (n := 2) (nextOk_tail h rfl)
  have h3 : ((s.takeAnswer.driveLine .dc (kindLevel s.cfg kind)).takeAnswer.driveLine .cs
      s.cfg.csActiveLevel).faultNext = false :=
    faultNext_eq_false (n := 1) (nextOk_tail (nextOk_tail h rfl) rfl)
  have h4 : ((s.takeAnswer.driveLine .dc (kindLevel s.cfg kind)).takeAnswer.driveLine .cs
      s.cfg.csActiveLevel).takeAnswer.faultNext = false :=
    faultNext_eq_false (n := 0) (nextOk_tail (nextOk_tail (nextOk_tail h rfl) rfl) rfl)
  simp only [transmitByte, frameEffect, driveEffect, transferEffect, Attempt.andThen, h1, h2, h3, h4, Bool.not_false]
  simp [State.record, State.takeAnswer, State.driveLine, Lines.drive, afterFrame, frameLines, ← List.drop_one]

/-! ### `PulseReset` -/

/-- A pulse none of whose drives is answered `fault`. -/
theorem pulseReset_ok (pattern : List PulseEntry) (s : State) (h : NextOk pattern.length s) :
    pulseReset pattern s = ⟨true, { s with
      faults := s.faults.drop pattern.length
      lines := { s.lines with rst := (pattern.getLast?.map fun e => Latch.driven e.1).getD s.lines.rst }
      tr := s.tr ++ pattern.flatMap fun e => [.setLine .rst e.1 .ok, .delay e.2] }⟩ := by
  induction pattern generalizing s with
  | nil => simp [pulseReset]
  | cons e rest ih =>
    obtain ⟨level, d⟩ := e
    have h1 : s.faultNext = false := faultNext_eq_false (n := rest.length) h
    simp only [pulseReset, setLine_ok h1, Attempt.andThen, delay]
    rw [ih _ (nextOk_tail h rfl)]
    cases rest with
    | nil => simp [State.record, State.takeAnswer, State.driveLine, Lines.drive]
    | cons e' rest' =>
      simp [State.record, State.takeAnswer, State.driveLine, Lines.drive, List.getLast?_cons]

/-! ### Instructions that are one primitive -/

/-- The primitive an instruction is, where it is exactly one. -/
def attemptOf (i : Instr) (s : State) : Option Attempt :=
  match i with
  | .setLine line l => if line.isOutput then some (setLine line l s) else none
  | .readLine .busy => some (readBusy s)
  | .transmitByte kind v => some (transmitByte kind v s)
  | .delay ms => some (delay ms s)
  | .frameCommand v => some (transmitByte .command v s)
  | .frameData v => some (transmitByte .data v s)
  | .wire00 => some (transmitByte .data 0x00#8 s)
  | .wire03 => some (transmitByte .data 0x03#8 s)
  | .wire30 => some (transmitByte .data 0x30#8 s)
  | .wire33 => some (transmitByte .data 0x33#8 s)
  | i => (vendorByte s.cfg.codes i).map fun b => transmitByte .command b s

theorem exec_of_attempt {i : Instr} {s : State} {a : Attempt} (h : attemptOf i s = some a) :
    exec i s = .next a.settle := by
  cases i <;> simp only [attemptOf, vendorByte, Option.map_some, Option.map_none, Option.some.injEq, reduceCtorEq] at h
  case setLine line l =>
    split_ifs at h with hl
    cases h
    simp [exec, execSetLine, hl]
  case readLine line =>
    cases line <;> simp at h
    rw [← h]; rfl
  case cmdLut index =>
    simp only [exec, execCmdLut]
    cases hb : s.cfg.codes.lut[index]? with
    | none => simp [hb] at h
    | some b => simp only [hb, Option.map_some, Option.some.injEq] at h; rw [← h]; rfl
  all_goals rw [← h]; rfl

end Sys2Proof.Machine
end

