-- ==== Sys2Proof/Laws/BusyWait.lean ====
section
/-! SUPPORT. What one round of a busy-wait can do, said once. -/

namespace Sys2Proof.Machine

/-- A round whose sample reads high: the wait is over. -/
theorem busyRound_high {n : Nat} {s : State} (h : s.faultNext = false) (hl : s.busy.level = .high) :
    busyRound n s = endWait (s.takeAnswer.takeSample.record (.readBusy (.level .high))) := by
  simp only [busyRound, readBusy_ok h, hl]

/-- A round whose sample reads low, with polls left: the count and the interval. -/
theorem busyRound_low {n : Nat} {s : State} (h : s.faultNext = false) (hl : s.busy.level = .low)
    (hp : pollsExhausted s.cfg (n + 1) = false) :
    busyRound n s =
      (countLow n (s.takeAnswer.takeSample.record (.readBusy (.level .low)))).record (.delay tPoll) := by
  simp only [busyRound, readBusy_ok h, hl, hp]

/-- A round whose sample is the last low one allowed. -/
theorem busyRound_timeout {n : Nat} {s : State} (h : s.faultNext = false) (hl : s.busy.level = .low)
    (hp : pollsExhausted s.cfg (n + 1) = true) :
    busyRound n s =
      (countLow n (s.takeAnswer.takeSample.record (.readBusy (.level .low)))).raise .timeout := by
  simp only [busyRound, readBusy_ok h, hl, hp]

/-- A round whose sample is answered `fault`. -/
theorem busyRound_fault {n : Nat} {s : State} (h : s.faultNext = true) :
    busyRound n s = (s.takeAnswer.record (.readBusy .failed)).raise .transportFault := by
  simp only [busyRound, readBusy_fault h]

/-- Polls are left while fewer low samples than the bound were seen. -/
theorem pollsExhausted_eq_false {c : Config} {n : Nat} (h : WithinPolls n c) : pollsExhausted c n = false := by
  unfold pollsExhausted
  cases hb : c.busyTimeoutPolls with
  | none => rfl
  | some limit =>
    have := h limit hb
    simpa using this

/-- The bound is reached. -/
theorem pollsExhausted_eq_true {c : Config} {n limit : Nat} (hb : c.busyTimeoutPolls = some limit) (h : limit ≤ n) :
    pollsExhausted c n = true := by
  simp [pollsExhausted, hb, h]

end Sys2Proof.Machine
end

