-- ==== Sys2Proof/Laws/Decode.lean ====
section
/-! SUPPORT. The decoder on the words the encoder writes. -/

namespace Sys2Proof.Laws

/-- A command frame's word. -/
theorem decode_command_word (v : Byte) (rest : List Byte) :
    decode .frame ([v, 0x00#8] ++ rest) = .ok (.frameCommand v, rest) := by
  have h1 : (BitVec.extractLsb' 0 1 (0x00#8) ++ v).getLsbD 8 = false := by
    revert v; decide
  have h2 : BitVec.extractLsb' 0 8 (BitVec.extractLsb' 0 1 (0x00#8) ++ v) = v := by
    revert v; decide
  simp only [decode, List.cons_append, List.nil_append]
  rw [if_pos (by decide)]
  simp only [decodeFrame, h1, h2, Bool.false_eq_true, if_false]

/-- A data frame's word. -/
theorem decode_data_word (v : Byte) (rest : List Byte) :
    decode .frame ([v, 0x01#8] ++ rest) = .ok (.frameData v, rest) := by
  have h1 : (BitVec.extractLsb' 0 1 (0x01#8) ++ v).getLsbD 8 = true := by
    revert v; decide
  have h2 : BitVec.extractLsb' 0 8 (BitVec.extractLsb' 0 1 (0x01#8) ++ v) = v := by
    revert v; decide
  simp only [decode, List.cons_append, List.nil_append]
  rw [if_pos (by decide)]
  simp only [decodeFrame, h1, h2, if_true]

/-- A vendor command's word is the word of its command frame. -/
theorem decode_commandWord (c : CommandCodes) (i : Instr) (rest : List Byte) {format : Format} {bytes : List Byte}
    (h : commandWord c i = some (format, bytes)) : decode format (bytes ++ rest) = .ok (wordMeaning c i, rest) := by
  unfold commandWord at h
  cases hb : vendorByte c i with
  | none => simp [hb] at h
  | some b =>
    simp only [hb, Option.map_some, Option.some.injEq, Prod.mk.injEq] at h
    obtain ⟨rfl, rfl⟩ := h
    simp only [wordMeaning, hb]
    exact decode_command_word b rest

end Sys2Proof.Laws
end

