-- ==== Sys2Proof/Laws/Step.lean ====
section
/-! SUPPORT. What one step can do: the step of a primitive, said once, and runs of several steps. -/

namespace Sys2Proof.Machine

open Host

/-! ### The three kinds of step -/

theorem step_blockReset {s : State} (h : s.port.rstN = false) : step s = .next s.blockReset := by
  simp [step, h]

theorem step_running {s : State} (h : s.port.rstN = true) (hr : s.run = true) : step s = runStep s.clearDone := by
  simp [step, h, hr]

theorem step_idle {s : State} (h : s.port.rstN = true) (hr : s.run = false) : step s = idleStep s.clearDone := by
  simp [step, h, hr]

/-! ### The step of a primitive -/

/-- Every primitive leaves the control state alone and appends one element to TR. -/
theorem attemptOf_spec {i : Instr} {s : State} {a : Attempt} (h : attemptOf i s = some a) :
    SameControl s a.st ∧ ∃ e, a.st.tr = s.tr ++ [e] := by
  have tx : ∀ k v, SameControl s (transmitByte k v s).st ∧ ∃ e, (transmitByte k v s).st.tr = s.tr ++ [e] := by
    intro k v
    obtain ⟨h1, -, h3⟩ := transmitByte_spec k v s
    rcases h3 with ⟨-, h⟩ | ⟨-, st, h⟩ <;> exact ⟨h1, _, h⟩
  cases i <;> simp only [attemptOf, vendorByte, Option.map_some, Option.map_none, Option.some.injEq, reduceCtorEq] at h
  case setLine line l =>
    split_ifs at h
    cases h
    exact ⟨setLine_same line l s, _, setLine_tr line l s⟩
  case readLine line =>
    cases line <;> simp at h
    rw [← h]
    exact ⟨readBusy_same s, _, readBusy_tr s⟩
  case delay ms =>
    rw [← h]
    exact ⟨delay_same ms s, _, rfl⟩
  case cmdLut index =>
    cases hb : s.cfg.codes.lut[index]? with
    | none => simp [hb] at h
    | some b => simp only [hb, Option.map_some, Option.some.injEq] at h; rw [← h]; exact tx _ _
  all_goals rw [← h]; exact tx _ _

/-- The step at a position whose instruction is one primitive: it is performed and the position moves on, or it faults and
ends the operation. -/
theorem runStep_attempt {s s0 : State} {op : Op} {ph : Phase} {k : Nat} {i : Instr} {a : Attempt}
    (hseq : s.seq = .pos op ph k) (hf : fetch s = .ok (i, s0)) (ha : attemptOf i s0 = some a) (hr : s0.run = true) :
    runStep s =
      if a.ok then outcomeOf (advancePhase op ph k s0.busy.level a.st) else .next (a.st.raise .transportFault) := by
  have hrun : a.st.run = true := ((attemptOf_spec ha).1.run).trans hr
  simp only [runStep, hf, exec_of_attempt ha]
  cases h : a.ok with
  | true => simp [Attempt.settle, h, advance, hrun, hseq]
  | false => simp [Attempt.settle, h, advance, outcomeOf]

/-- What `fetch` reads at a position of the operation. -/
theorem fetch_pos {s : State} {op : Op} {ph : Phase} {k : Nat} (hseq : s.seq = .pos op ph k)
    (hp : op.hasPhase ph = true) : fetch s = fetchPhase op ph k s := by
  simp [fetch, hseq, hp]

/-! ### Runs -/

theorem coreRun_next (M : Host.Core) (k : Nat) {s t : M.State} (h : M.step s = .next t) :
    M.run (k + 1) s = M.run k t := by
  simp [Host.Core.run, h]

theorem coreRun_fault (M : Host.Core) (k : Nat) {s : M.State} {f : M.Fault} (h : M.step s = .fault f) :
    M.run (k + 1) s = .fault f := by
  simp [Host.Core.run, h]

theorem coreRun_refused (M : Host.Core) (k : Nat) {s : M.State} {r : M.Refusal} (h : M.step s = .refused r) :
    M.run (k + 1) s = .refused r := by
  simp [Host.Core.run, h]

/-- `runs` is the host's run of the machine. -/
theorem runs_eq_coreRun (k : Nat) (s : State) : runs k s = Host.Core.run core k s := by
  induction k generalizing s with
  | zero => rfl
  | succ k ih =>
    rw [runs]
    cases h : step s with
    | next t => exact (ih t).trans (coreRun_next core k (s := s) (t := t) h).symm
    | fault f => exact (coreRun_fault core k (s := s) (f := f) h).symm
    | refused r => exact (coreRun_refused core k (s := s) (r := r) h).symm

theorem runs_zero (s : State) : runs 0 s = .next s := rfl

theorem runs_unfold (n : Nat) (s : State) :
    runs (n + 1) s =
      (match step s with
      | .next t => runs n t
      | .fault f => .fault f
      | .refused r => .refused r) := rfl

theorem runs_succ {n : Nat} {s t : State} (h : step s = .next t) : runs (n + 1) s = runs n t := by
  rw [runs_unfold, h]

/-- Runs compose. -/
theorem runs_add {m n : Nat} {s t : State} (h : runs m s = .next t) : runs (m + n) s = runs n t := by
  induction m generalizing s with
  | zero =>
    cases h
    rw [Nat.zero_add]
  | succ m ih =>
    have e : m + 1 + n = (m + n) + 1 := by omega
    rw [e]
    cases hs : step s with
    | next u =>
      rw [runs_succ hs]
      rw [runs_succ hs] at h
      exact ih h
    | fault f =>
      rw [runs_unfold, hs] at h
      cases h
    | refused r =>
      rw [runs_unfold, hs] at h
      cases h

theorem runs_one {s t : State} (h : step s = .next t) : runs 1 s = .next t := by
  rw [runs_succ h]; rfl

end Sys2Proof.Machine
end

