-- ==== Sys2Proof/Laws/Sequencer.lean ====
section
/-! SUPPORT. Once for the whole sequencer, what a step of an operation in progress can do. -/

namespace Sys2Proof.Machine

open Host

/-- The phases whose instruction is the operation's own: a check, a pixel, the completion. -/
def isControl : Phase → Bool
  | .check => true
  | .pixel => true
  | .done => true
  | _ => false

/-- Every wire byte is one of the four rows. -/
theorem decodeWire_wireByte (inv : Byte) (pp : Nat) :
    ∃ i, decodeWire (wireByte inv pp) = .ok i ∧ (i = .wire00 ∨ i = .wire03 ∨ i = .wire30 ∨ i = .wire33) := by
  unfold wireByte
  cases inv.getLsbD (7 - 2 * pp) <;> cases inv.getLsbD (7 - 2 * pp - 1) <;>
    first
      | exact ⟨.wire00, rfl, by simp⟩
      | exact ⟨.wire03, rfl, by simp⟩
      | exact ⟨.wire30, rfl, by simp⟩
      | exact ⟨.wire33, rfl, by simp⟩

/-- A wire row is the data frame of the byte it was decoded from. -/
theorem attemptOf_decodeWire {b : Byte} {i : Instr} (h : decodeWire b = .ok i) (s : State) :
    attemptOf i s = some (transmitByte .data b s) := by
  have key : b = 0x00#8 ∨ b = 0x03#8 ∨ b = 0x30#8 ∨ b = 0x33#8 ∨ decodeWire b = .error .notAWireByte := by
    unfold decodeWire
    split <;> simp_all [BitVec.toNat_eq]
  rcases key with rfl | rfl | rfl | rfl | h'
  iterate 4 (cases h; rfl)
  rw [h'] at h
  cases h

/-- What the wire frame's position of `Display` reads. -/
theorem displayPair_cases {s s0 : State} {i : Instr} (h : displayPair s = .ok (i, s0)) :
    ∃ bi pp inv, s.dp.bi = some bi ∧ s.dp.pp = some pp ∧ s0.dp.inv = some inv ∧ decodeWire (wireByte inv pp) = .ok i ∧
      ((pp = 0 ∧ bi < bufSz ∧ s0 = loadInv (pbbByte s.pbb bi) s) ∨ (0 < pp ∧ s0 = s)) := by
  unfold displayPair at h
  cases hb : s.dp.bi with
  | none => simp [hb, readReg] at h
  | some bi =>
    cases hp : s.dp.pp with
    | none => simp [hb, hp, readReg] at h
    | some pp =>
      simp only [hb, hp, readReg] at h
      cases hl : loadWhenTaken bi pp s with
      | error f => simp [hl] at h
      | ok s' =>
        simp only [hl] at h
        cases hi : s'.dp.inv with
        | none => simp [hi] at h
        | some inv =>
          simp only [hi] at h
          cases hd : decodeWire (wireByte inv pp) with
          | error e => simp [hd] at h
          | ok j =>
            simp only [hd, Except.ok.injEq, Prod.mk.injEq] at h
            obtain ⟨rfl, rfl⟩ := h
            refine ⟨bi, pp, inv, rfl, rfl, hi, hd, ?_⟩
            cases pp with
            | zero =>
              simp only [loadWhenTaken, pbbExists] at hl
              by_cases hlt : bi < bufSz
              · simp only [hlt, decide_true, Except.ok.injEq] at hl
                exact .inl ⟨rfl, hlt, hl.symm⟩
              · simp [hlt] at hl
            | succ pp =>
              simp only [loadWhenTaken, Except.ok.injEq] at hl
              exact .inr ⟨Nat.succ_pos _, hl.symm⟩

/-- What a position of the reset pulse performs. -/
theorem pulsePrimitive_cases {k : Nat} {i : Instr} (h : pulsePrimitive k = .ok i) :
    ∃ level d, resetPattern[k / 2]? = some (level, d) ∧
      ((k % 2 = 0 ∧ i = .setLine .rst level) ∨ (k % 2 ≠ 0 ∧ i = .delay d)) := by
  unfold pulsePrimitive at h
  cases hr : resetPattern[k / 2]? with
  | none => simp [hr] at h
  | some e =>
    obtain ⟨level, d⟩ := e
    simp only [hr, Except.ok.injEq] at h
    refine ⟨level, d, rfl, ?_⟩
    split_ifs at h with hk
    · exact .inl ⟨hk, h.symm⟩
    · exact .inr ⟨hk, h.symm⟩

/-- The current step of `INIT_SEQ`, where there is one. -/
theorem currentInitStep_cases {s : State} {st : InitStep} (h : currentInitStep s = .ok st) :
    ∃ si, s.dp.si = some si ∧ s.cfg.initSeq[si]? = some st := by
  unfold currentInitStep at h
  cases hs : s.dp.si with
  | none => simp [hs, readReg] at h
  | some si =>
    simp only [hs, readReg] at h
    cases hg : s.cfg.initSeq[si]? with
    | none => simp [hg] at h
    | some st' => simp only [hg, Except.ok.injEq] at h; exact ⟨si, rfl, h ▸ hg⟩

/-- The command position of `Init` sends the command of the current step. -/
theorem initCommand_cases {s : State} {i : Instr} (h : initCommand s = .ok i) :
    ∃ st, currentInitStep s = .ok st ∧ i = .frameCommand st.cmd := by
  unfold initCommand at h
  cases hs : currentInitStep s with
  | error f => simp [hs] at h
  | ok st => simp only [hs, Except.ok.injEq] at h; exact ⟨st, rfl, h.symm⟩

/-- The argument position of `Init` sends argument AI of the current step. -/
theorem initArgument_cases {s : State} {i : Instr} (h : initArgument s = .ok i) :
    ∃ st ai a, currentInitStep s = .ok st ∧ s.dp.ai = some ai ∧ st.args[ai]? = some a ∧ i = .frameData a := by
  unfold initArgument at h
  cases hs : currentInitStep s with
  | error f => simp [hs] at h
  | ok st =>
    cases ha : s.dp.ai with
    | none => simp [hs, ha, readReg] at h
    | some ai =>
      cases hg : st.args[ai]? with
      | none => simp [hs, ha, hg, readReg] at h
      | some a => simp only [hs, ha, hg, readReg, Except.ok.injEq] at h; exact ⟨st, ai, a, rfl, rfl, hg, h.symm⟩

/-- An instruction read for a position, the state unchanged. -/
theorem inState_cases {s s0 : State} {i : Instr} {e : Except Fault Instr} (h : inState s e = .ok (i, s0)) :
    e = .ok i ∧ s0 = s := by
  cases e with
  | error f => simp [inState] at h
  | ok j => simp only [inState, Except.ok.injEq, Prod.mk.injEq] at h; exact ⟨by rw [h.1], h.2.symm⟩

/-- At a position that is no control position the instruction is one primitive, and reading it writes INV at most. -/
theorem fetchPhase_attempt {op : Op} {ph : Phase} {k : Nat} {s s0 : State} {i : Instr} (hc : isControl ph = false)
    (h : fetchPhase op ph k s = .ok (i, s0)) : (∃ a, attemptOf i s0 = some a) ∧ ∃ d, s0 = s.setDp d := by
  have same : s = s.setDp s.dp := rfl
  cases ph <;> simp only [isControl, Bool.true_eq_false] at hc <;> simp only [fetchPhase] at h
  case pulse =>
    unfold pulsePrimitive at h
    cases hr : resetPattern[k / 2]? with
    | none => simp [hr, inState] at h
    | some e =>
      obtain ⟨l, d⟩ := e
      simp only [hr, inState, Except.ok.injEq, Prod.mk.injEq] at h
      obtain ⟨rfl, rfl⟩ := h
      refine ⟨?_, _, same⟩
      split_ifs <;> exact ⟨_, rfl⟩
  case initCmd =>
    unfold initCommand at h
    cases hs : currentInitStep s with
    | error f => simp [hs, inState] at h
    | ok st =>
      simp only [hs, inState, Except.ok.injEq, Prod.mk.injEq] at h
      obtain ⟨rfl, rfl⟩ := h
      exact ⟨⟨_, rfl⟩, _, same⟩
  case initArg =>
    unfold initArgument at h
    cases hs : currentInitStep s with
    | error f => simp [hs, inState] at h
    | ok st =>
      cases ha : readReg .ai s.dp.ai with
      | error f => simp [hs, ha, inState] at h
      | ok ai =>
        cases hg : st.args[ai]? with
        | none => simp [hs, ha, hg, inState] at h
        | some a =>
          simp only [hs, ha, hg, inState, Except.ok.injEq, Prod.mk.injEq] at h
          obtain ⟨rfl, rfl⟩ := h
          exact ⟨⟨_, rfl⟩, _, same⟩
  case stream =>
    split_ifs at h
    · obtain ⟨bi, pp, inv, -, -, -, hd, hs⟩ := displayPair_cases h
      refine ⟨⟨_, attemptOf_decodeWire hd _⟩, ?_⟩
      rcases hs with ⟨-, -, rfl⟩ | ⟨-, rfl⟩
      · exact ⟨_, rfl⟩
      · exact ⟨_, same⟩
    · simp only [Except.ok.injEq, Prod.mk.injEq] at h
      obtain ⟨rfl, rfl⟩ := h
      exact ⟨⟨_, rfl⟩, _, same⟩
  all_goals
    simp only [Except.ok.injEq, Prod.mk.injEq] at h
    obtain ⟨rfl, rfl⟩ := h
    exact ⟨⟨_, rfl⟩, _, same⟩

/-- A control position's instruction is the operation's own. -/
theorem fetchPhase_control {op : Op} {ph : Phase} {k : Nat} {s : State} (hc : isControl ph = true) :
    fetchPhase op ph k s = .ok (op.instr, s) := by
  cases ph <;> simp only [isControl, Bool.false_eq_true] at hc <;> rfl

/-- What a step of an operation in progress can do, if it answers a next state: at a control position it is the meaning of
the operation's instruction; elsewhere one primitive is performed, and then the position moves on, or the primitive
faulted and the operation has ended. -/
theorem runStep_cases {s t : State} (hr : s.run = true) (h : runStep s = .next t) :
    ∃ op ph k, s.seq = .pos op ph k ∧ op.hasPhase ph = true ∧
      ((isControl ph = true ∧ exec op.instr s = .next t) ∨
        (isControl ph = false ∧ ∃ i s0 a d, fetchPhase op ph k s = .ok (i, s0) ∧ s0 = s.setDp d ∧
          attemptOf i s0 = some a ∧
          ((a.ok = true ∧ advancePhase op ph k s0.busy.level a.st = .ok t) ∨
            (a.ok = false ∧ t = a.st.raise .transportFault)))) := by
  cases hseq : s.seq with
  | idle => simp [runStep, fetch, hseq] at h
  | pos op ph k =>
    cases hp : op.hasPhase ph with
    | false => simp [runStep, fetch, hseq, hp] at h
    | true =>
      refine ⟨op, ph, k, rfl, hp, ?_⟩
      have hf := fetch_pos hseq hp
      cases hc : isControl ph with
      | true =>
        refine .inl ⟨rfl, ?_⟩
        rw [fetchPhase_control hc] at hf
        simp only [runStep, hf] at h
        cases he : exec op.instr s with
        | next u =>
          simp only [he, hseq] at h
          have : advance (.pos op ph k) s.busy.level u = .ok u := by
            unfold advance
            cases u.run with
            | false => rfl
            | true => cases ph <;> simp only [isControl, Bool.false_eq_true] at hc <;> rfl
          rw [this] at h
          exact h
        | fault f => simp [he] at h
        | refused r => simp [he] at h
      | false =>
        refine .inr ⟨rfl, ?_⟩
        cases hg : fetchPhase op ph k s with
        | error f =>
          rw [hg] at hf
          simp [runStep, hf] at h
        | ok p =>
          obtain ⟨i, s0⟩ := p
          obtain ⟨⟨a, ha⟩, d, hd⟩ := fetchPhase_attempt hc hg
          have hr0 : s0.run = true := by rw [hd]; exact hr
          rw [runStep_attempt hseq (hf.trans hg) ha hr0] at h
          refine ⟨i, s0, a, d, rfl, hd, ha, ?_⟩
          cases hok : a.ok with
          | true =>
            simp only [hok, if_true] at h
            refine .inl ⟨rfl, ?_⟩
            cases hadv : advancePhase op ph k s0.busy.level a.st with
            | error f => simp [hadv, outcomeOf] at h
            | ok u => simp only [hadv, outcomeOf, Outcome.next.injEq] at h; rw [h]
          | false =>
            simp only [hok, Bool.false_eq_true, if_false, Outcome.next.injEq] at h
            exact .inr ⟨rfl, h.symm⟩

/-- What a step can do while no operation runs, if it answers a next state: nothing, or the acceptance of a request. -/
theorem idleStep_cases {s t : State} (hr : s.run = false) (h : idleStep s = .next t) :
    t = s ∨ ∃ op d, t = (accept op s).setDp d := by
  unfold idleStep at h
  cases hv : s.port.opValid with
  | false => simp only [hv, Outcome.next.injEq] at h; exact .inl h.symm
  | true =>
    simp only [hv] at h
    have ho : ∀ op check, operate op check s = (accept op s).setDp s.dp := by
      intro op check
      simp only [operate, hr]; rfl
    unfold decodeOpCode at h
    split at h <;> simp only [exec, Outcome.next.injEq, execReset, execInit, execClear, execDisplay, execSleep, execConvert,
      execReserved110, execReserved111, ho, hr] at h
    all_goals first
      | exact .inl h.symm
      | exact .inr ⟨_, _, h.symm⟩

/-- What the meaning of an operation's instruction can do while an operation runs: nothing (it is held off), a check, a
pixel, or completion. -/
inductive ControlStep (op : Op) (s : State) : State → Prop where
  | heldOff : ControlStep op s s
  | initChecked (j : Nat) (hop : op = .init) (hs : s.seq = .pos .init .check j) (hl : s.ls ≠ .sleeping) :
      ControlStep op s (s.goto .init .pulse 0)
  | clearChecked (j : Nat) (hop : op = .clear) (hs : s.seq = .pos .clear .check j) (hl : s.ls = .ready) :
      ControlStep op s (s.goto .clear .startCmd 0)
  | displayStateChecked (hop : op = .display) (hs : s.seq = .pos .display .check 0) (hl : s.ls = .ready) :
      ControlStep op s (s.goto .display .check 1)
  | displayLengthChecked (j : Nat) (hop : op = .display) (hs : s.seq = .pos .display .check (j + 1))
      (hl : s.operands.len = bufSz) : ControlStep op s (s.goto .display .startCmd 0)
  | sleepChecked (j : Nat) (hop : op = .sleep) (hs : s.seq = .pos .sleep .check j) (hl : s.ls = .ready) :
      ControlStep op s (s.goto .sleep .powerOffCmd 0)
  | refuse (e : Status) (he : e = .invalidState ∨ e = .invalidBufferSize) : ControlStep op s (s.raise e)
  | complete (j : Nat) (hs : s.seq = .pos op .done j) : ControlStep op s (s.finish .ok)
  | pixel (i j k : Nat) (acc : Byte) (t : State) (hop : op = .convert) (hs : s.seq = .pos .convert .pixel k)
      (hi : s.dp.ci = some i) (hj : s.dp.cj = some j) (ha : s.dp.acc = some acc) (h : pixelStep i j acc s = .ok t) :
      ControlStep op s t

/-- What `operate` can do while an operation runs. -/
theorem operate_cases (op : Op) (check : Nat → State → State) {s : State} (hr : s.run = true) :
    operate op check s = s ∨ (∃ j, s.seq = .pos op .check j ∧ operate op check s = check j s) ∨
      ∃ j, s.seq = .pos op .done j ∧ operate op check s = s.finish .ok := by
  unfold operate
  rw [hr]
  dsimp only
  cases hs : s.seq with
  | idle => exact .inl rfl
  | pos o ph k =>
    cases ph <;> dsimp only <;> first
      | exact .inl rfl
      | (split_ifs with h
         · subst h
           first
             | exact .inr (.inl ⟨k, rfl, rfl⟩)
             | exact .inr (.inr ⟨k, rfl, rfl⟩)
         · exact .inl rfl)

/-- What an operation's instruction can do while an operation runs, if it answers a next state. -/
theorem exec_control {op : Op} {s t : State} (hr : s.run = true) (h : exec op.instr s = .next t) :
    ControlStep op s t := by
  cases op <;> simp only [Op.instr, exec] at h
  case reset =>
    cases h
    rcases operate_cases .reset (fun _ => id) hr with e | ⟨j, -, e⟩ | ⟨j, hs, e⟩ <;> rw [e]
    · exact .heldOff
    · exact .heldOff
    · exact .complete j hs
  case init =>
    cases h
    rcases operate_cases .init (fun _ => stateCheck .init (State.goto .init .pulse 0)) hr with e | ⟨j, hs, e⟩ | ⟨j, hs, e⟩ <;>
      rw [e]
    · exact .heldOff
    · cases hl : s.ls <;> simp only [stateCheck, Op.validIn, hl]
      · exact .initChecked j rfl hs (by simp [hl])
      · exact .initChecked j rfl hs (by simp [hl])
      · exact .refuse _ (.inl rfl)
    · exact .complete j hs
  case clear =>
    cases h
    rcases operate_cases .clear (fun _ => stateCheck .clear (State.goto .clear .startCmd 0)) hr with e | ⟨j, hs, e⟩ | ⟨j, hs, e⟩ <;>
      rw [e]
    · exact .heldOff
    · cases hl : s.ls <;> simp only [stateCheck, Op.validIn, hl]
      · exact .refuse _ (.inl rfl)
      · exact .clearChecked j rfl hs hl
      · exact .refuse _ (.inl rfl)
    · exact .complete j hs
  case display =>
    cases h
    rcases operate_cases .display displayCheck hr with e | ⟨j, hs, e⟩ | ⟨j, hs, e⟩ <;> rw [e]
    · exact .heldOff
    · cases j with
      | zero =>
        cases hl : s.ls <;> simp only [displayCheck, stateCheck, Op.validIn, hl]
        · exact .refuse _ (.inl rfl)
        · exact .displayStateChecked rfl hs hl
        · exact .refuse _ (.inl rfl)
      | succ j =>
        simp only [displayCheck, lengthCheck, bufLenOk]
        by_cases hb : s.operands.len = bufSz
        · simp only [hb, decide_true]
          exact .displayLengthChecked j rfl hs hb
        · simp only [hb, decide_false]
          exact .refuse _ (.inr rfl)
    · exact .complete j hs
  case sleep =>
    cases h
    rcases operate_cases .sleep (fun _ => stateCheck .sleep (State.goto .sleep .powerOffCmd 0)) hr with e | ⟨j, hs, e⟩ | ⟨j, hs, e⟩ <;>
      rw [e]
    · exact .heldOff
    · cases hl : s.ls <;> simp only [stateCheck, Op.validIn, hl]
      · exact .refuse _ (.inl rfl)
      · exact .sleepChecked j rfl hs hl
      · exact .refuse _ (.inl rfl)
    · exact .complete j hs
  case convert =>
    unfold execConvert at h
    rw [hr] at h
    split at h
    · exact absurd ‹true = false› (by decide)
    · rename_i hs
      cases hp : convertPixel s with
      | error f => simp [hp] at h
      | ok u =>
        simp only [hp, Outcome.next.injEq] at h
        subst h
        unfold convertPixel at hp
        cases hi : s.dp.ci with
        | none => simp [hi, readReg] at hp
        | some i =>
          cases hj : s.dp.cj with
          | none => simp [hi, hj, readReg] at hp
          | some j =>
            cases ha : s.dp.acc with
            | none => simp [hi, hj, ha, readReg] at hp
            | some acc =>
              simp only [hi, hj, ha, readReg] at hp
              exact .pixel i j _ acc u rfl hs hi hj ha hp
    · cases h
      rcases operate_cases .convert (fun _ => id) hr with e | ⟨j, -, e⟩ | ⟨j, hs, e⟩ <;> rw [e]
      · exact .heldOff
      · exact .heldOff
      · exact .complete j hs

/-- What a pixel's step writes: `PBB` at the pixel's byte, at most, the registers and the position. -/
theorem pixelStep_cases {i j : Nat} {acc : Byte} {s t : State} (h : pixelStep i j acc s = .ok t) :
    (i % 8 = 7 ∧ pbbAddr i j < bufSz ∧
        t = nextPixel i j 0#8 (s.writePbb (pbbAddr i j) (accumulate acc (s.convertBit i j)))) ∨
      (i % 8 ≠ 7 ∧ t = nextPixel i j (accumulate acc (s.convertBit i j)) s) := by
  unfold pixelStep at h
  dsimp only at h
  split_ifs at h with h7
  · by_cases hb : pbbAddr i j < bufSz
    · simp only [pbbExists, hb, decide_true, Except.ok.injEq] at h
      exact .inl ⟨h7, hb, h.symm⟩
    · simp [pbbExists, hb] at h
  · exact .inr ⟨h7, (Except.ok.inj h).symm⟩

/-- The state after a pixel, but for its registers and its position, is the state before. -/
theorem nextPixel_eq (i j : Nat) (acc : Byte) (s : State) :
    ∃ d ph k, nextPixel i j acc s = (s.setDp d).goto .convert ph k := by
  unfold nextPixel
  split_ifs <;> exact ⟨_, _, _, rfl⟩

/-- What a pixel's step leaves alone: all but the registers, the position and `PBB`. -/
theorem pixelStep_frame {i j : Nat} {acc : Byte} {s t : State} (h : pixelStep i j acc s = .ok t) :
    ∃ d ph k m, t = { s with dp := d, seq := .pos .convert ph k, pbb := m } ∧
      (m = s.pbb ∨ m = memWrite pbbDefault s.pbb (pbbAddr i j) (accumulate acc (s.convertBit i j))) := by
  rcases pixelStep_cases h with ⟨-, -, rfl⟩ | ⟨-, rfl⟩
  · obtain ⟨d, p, k, e⟩ :=
      nextPixel_eq i j 0#8 (s.writePbb (pbbAddr i j) (accumulate acc (s.convertBit i j)))
    rw [e]
    exact ⟨_, _, _, _, rfl, .inr rfl⟩
  · obtain ⟨d, p, k, e⟩ := nextPixel_eq i j (accumulate acc (s.convertBit i j)) s
    rw [e]
    exact ⟨_, _, _, _, rfl, .inl rfl⟩

/-- What the move after a primitive writes: LS, the registers, the position; or it raises `Timeout`. -/
theorem advancePhase_cases {op : Op} {ph : Phase} {k : Nat} {level : Level} {s t : State}
    (h : advancePhase op ph k level s = .ok t) :
    (∃ ls d seq, t = { s with ls := ls, dp := d, seq := seq }) ∨
      (ph = .poll ∧ ∃ d, t = (s.setDp d).raise .timeout) := by
  have enterInit : ∀ (si : Nat) (u : State), ∃ ls d seq, enterInitStep si u = { u with ls := ls, dp := d, seq := seq } := by
    intro si u
    unfold enterInitStep
    split_ifs <;> exact ⟨_, _, _, rfl⟩
  have afterFrames : ∀ (st : InitStep) (si : Nat) (u : State),
      ∃ ls d seq, afterInitFrames st si u = { u with ls := ls, dp := d, seq := seq } := by
    intro st si u
    unfold afterInitFrames
    cases st.wait with
    | true => exact ⟨_, _, _, rfl⟩
    | false => exact enterInit _ u
  cases ph <;> simp only [advancePhase] at h
  case pulse =>
    refine .inl ?_
    cases h
    unfold advancePulse
    split_ifs
    · exact ⟨_, _, _, rfl⟩
    · unfold afterPulse
      split_ifs
      · obtain ⟨ls, d, seq, e⟩ := enterInit 0 (s.setLs .unpowered)
        exact ⟨ls, d, seq, e⟩
      · exact ⟨_, _, _, rfl⟩
  case initCmd =>
    refine .inl ?_
    unfold advanceInitCmd at h
    cases hs : readReg .si s.dp.si with
    | error f => simp [hs] at h
    | ok si =>
      cases hc : currentInitStep s with
      | error f => simp [hs, hc] at h
      | ok st =>
        simp only [hs, hc] at h
        split_ifs at h
        · cases h; exact ⟨_, _, _, rfl⟩
        · cases h; exact afterFrames _ _ _
  case initArg =>
    refine .inl ?_
    unfold advanceInitArg at h
    cases hs : readReg .si s.dp.si with
    | error f => simp [hs] at h
    | ok si =>
      cases hc : currentInitStep s with
      | error f => simp [hs, hc] at h
      | ok st =>
        cases ha : readReg .ai s.dp.ai with
        | error f => simp [hs, hc, ha] at h
        | ok ai =>
          simp only [hs, hc, ha] at h
          split_ifs at h
          · cases h; exact ⟨_, _, _, rfl⟩
          · cases h; exact afterFrames _ _ _
  case stream =>
    refine .inl ?_
    unfold advanceStream at h
    cases hb : readReg .bi s.dp.bi with
    | error f => simp [hb] at h
    | ok bi =>
      cases hp : readReg .pp s.dp.pp with
      | error f => simp [hb, hp] at h
      | ok pp =>
        simp only [hb, hp] at h
        split_ifs at h <;> cases h <;> exact ⟨_, _, _, rfl⟩
  case poll =>
    unfold advancePoll at h
    cases level with
    | high =>
      refine .inl ?_
      dsimp only at h
      unfold afterWait at h
      cases op <;> dsimp only at h
      case init =>
        have e0 : (endWait s).dp.si = s.dp.si := rfl
        rw [e0] at h
        cases hs : readReg .si s.dp.si with
        | error f => simp [hs] at h
        | ok si =>
          simp only [hs, Except.ok.injEq] at h
          obtain ⟨ls, d, seq, e⟩ := enterInit (si + 1) (endWait s)
          exact ⟨ls, d, seq, h.symm.trans e⟩
      all_goals first
        | (cases h; exact ⟨_, _, _, rfl⟩)
        | cases h
    | low =>
      dsimp only at h
      unfold advanceLow at h
      cases hn : readReg .pc s.dp.pc with
      | error f => simp [hn] at h
      | ok n =>
        simp only [hn] at h
        cases hp : pollsExhausted s.cfg (n + 1) with
        | true => simp only [hp, Except.ok.injEq] at h; exact .inr ⟨rfl, _, h.symm⟩
        | false => simp only [hp, Except.ok.injEq] at h; exact .inl ⟨_, _, _, h.symm⟩
  all_goals
    cases h
    exact .inl ⟨_, _, _, rfl⟩

/-! ### The whole step -/

/-- A step of an operation in progress at position (op, ph, k), from the state with `op_done` low: a control position, or one
primitive and what follows it. -/
inductive RunningStep (op : Op) (ph : Phase) (k : Nat) (s t : State) : Prop where
  | control (hc : isControl ph = true) (h : ControlStep op s t)
  | moved (i : Instr) (s0 : State) (a : Attempt) (d : Datapath) (hc : isControl ph = false)
      (hf : fetchPhase op ph k s = .ok (i, s0)) (hd : s0 = s.setDp d) (ha : attemptOf i s0 = some a)
      (hok : a.ok = true) (h : advancePhase op ph k s0.busy.level a.st = .ok t)
  | faulted (i : Instr) (s0 : State) (a : Attempt) (d : Datapath) (hc : isControl ph = false)
      (hf : fetchPhase op ph k s = .ok (i, s0)) (hd : s0 = s.setDp d) (ha : attemptOf i s0 = some a)
      (hok : a.ok = false) (h : t = a.st.raise .transportFault)

/-- What a step out of block reset can do, if it answers a next state. -/
theorem step_cases {s t : State} (hrst : s.port.rstN = true) (h : step s = .next t) :
    (s.run = false ∧ (t = s.clearDone ∨ ∃ op d, t = (accept op s.clearDone).setDp d)) ∨
      (s.run = true ∧
        ∃ op ph k, s.seq = .pos op ph k ∧ op.hasPhase ph = true ∧ RunningStep op ph k s.clearDone t) := by
  cases hr : s.run with
  | false =>
    rw [step_idle hrst hr] at h
    exact .inl ⟨rfl, idleStep_cases (s := s.clearDone) hr h⟩
  | true =>
    rw [step_running hrst hr] at h
    obtain ⟨op, ph, k, hs, hp, ⟨hc, he⟩ | ⟨hc, i, s0, a, d, hf, hd, ha, ⟨hok, hx⟩ | ⟨hok, hx⟩⟩⟩ :=
      runStep_cases (s := s.clearDone) hr h
    · exact .inr ⟨rfl, op, ph, k, hs, hp, .control hc (exec_control (s := s.clearDone) hr he)⟩
    · exact .inr ⟨rfl, op, ph, k, hs, hp, .moved i s0 a d hc hf hd ha hok hx⟩
    · exact .inr ⟨rfl, op, ph, k, hs, hp, .faulted i s0 a d hc hf hd ha hok hx⟩

end Sys2Proof.Machine
end

