-- ==== Sys2Proof/Laws/Runs.lean ====
section
/-! SUPPORT. The states an operation passes through when no primitive faults, as one function of how far it has come, and
one step lemma per kind of primitive over them. -/

open Sys2Proof Sys2Proof.Machine Host

/-- The operation begun at `s0` has appended `ev`, taken `m` samples and `f` fault answers, and stands at `seq`. -/
def reached (s0 : State) (done : Bool) (ev : List Event) (m f : Nat) (l : Lines) (ls : Lifecycle) (seq : Seq)
    (dp : Datapath) : State :=
  { s0 with
    opDone := done, run := true, tr := s0.tr ++ ev, busy := busyAfter m s0.busy, faults := s0.faults.drop f, lines := l,
    ls := ls, seq := seq, dp := dp }

/-- After `m + 1` samples. -/
theorem busyAfter_next (m : Nat) (b : BusyInput) : (busyAfter m b).next = busyAfter (m + 1) b := by
  induction m generalizing b with
  | zero => rfl
  | succ m ih => exact ih b.next

/-- `m` samples and then `n`. -/
theorem busyAfter_add (m n : Nat) (b : BusyInput) : busyAfter n (busyAfter m b) = busyAfter (m + n) b := by
  induction n generalizing m b with
  | zero => rfl
  | succ n ih =>
    show busyAfter n (busyAfter m b).next = _
    rw [busyAfter_next, ih]
    congr 1
    omega

section
variable {s0 t u : State} {done : Bool} {ev : List Event} {m f k : Nat} {l : Lines} {ls : Lifecycle} {op : Op}
  {ph : Phase} {dp dp' : Datapath} {i : Instr} {kind : Kind} {v : Byte}

/-- No fault answers are to come. -/
theorem reached_noTransportFault (hn : NoTransportFault s0) (seq : Seq) :
    NoTransportFault (reached s0 done ev m f l ls seq dp) := noTransportFault_drop hn rfl

/-- A frame sent from a reached state. -/
theorem reached_afterFrame (seq : Seq) :
    afterFrame kind v (reached s0 done ev m f l ls seq dp) =
      reached s0 done (ev ++ [.tx kind v .ok]) m (f + 4) (frameLines s0.cfg kind l) ls seq dp := by
  simp [afterFrame, reached, List.drop_drop]

/-- A step that performs a primitive which does not fault. -/
theorem reached_step (hr : s0.port.rstN = true) (hp : op.hasPhase ph = true)
    (hf : fetchPhase op ph k (reached s0 false ev m f l ls (.pos op ph k) dp) =
      .ok (i, reached s0 false ev m f l ls (.pos op ph k) dp'))
    (ha : attemptOf i (reached s0 false ev m f l ls (.pos op ph k) dp') = some ⟨true, u⟩) :
    step (reached s0 done ev m f l ls (.pos op ph k) dp) =
      outcomeOf (advancePhase op ph k (busyAfter m s0.busy).level u) := by
  rw [step_running (s := reached s0 done ev m f l ls (.pos op ph k) dp) hr rfl]
  exact runStep_attempt (s := reached s0 false ev m f l ls (.pos op ph k) dp) rfl ((fetch_pos rfl hp).trans hf) ha rfl

/-- A step that sends a frame. -/
theorem reached_frame (hn : NoTransportFault s0) (hr : s0.port.rstN = true) (hp : op.hasPhase ph = true)
    (hf : fetchPhase op ph k (reached s0 false ev m f l ls (.pos op ph k) dp) =
      .ok (i, reached s0 false ev m f l ls (.pos op ph k) dp'))
    (ha : attemptOf i (reached s0 false ev m f l ls (.pos op ph k) dp') =
      some (transmitByte kind v (reached s0 false ev m f l ls (.pos op ph k) dp')))
    (hadv : ∀ level, advancePhase op ph k level
      (reached s0 false (ev ++ [.tx kind v .ok]) m (f + 4) (frameLines s0.cfg kind l) ls (.pos op ph k) dp') = .ok t) :
    step (reached s0 done ev m f l ls (.pos op ph k) dp) = .next t := by
  rw [transmitByte_ok (nextOk_of_noTransportFault (reached_noTransportFault hn _)), reached_afterFrame] at ha
  rw [reached_step hr hp hf ha, hadv]
  rfl

/-- A step that waits. -/
theorem reached_delay (hr : s0.port.rstN = true) (hp : op.hasPhase ph = true) {ms : Nat}
    (hf : fetchPhase op ph k (reached s0 false ev m f l ls (.pos op ph k) dp) =
      .ok (.delay ms, reached s0 false ev m f l ls (.pos op ph k) dp))
    (hadv : ∀ level, advancePhase op ph k level
      (reached s0 false (ev ++ [.delay ms]) m f l ls (.pos op ph k) dp) = .ok t) :
    step (reached s0 done ev m f l ls (.pos op ph k) dp) = .next t := by
  have ha : attemptOf (.delay ms) (reached s0 false ev m f l ls (.pos op ph k) dp) =
      some ⟨true, reached s0 false (ev ++ [.delay ms]) m f l ls (.pos op ph k) dp⟩ := by
    simp [attemptOf, delay, reached, State.record]
  rw [reached_step hr hp hf ha, hadv]
  rfl

/-- A step that drives `RST`. -/
theorem reached_setLine (hn : NoTransportFault s0) (hr : s0.port.rstN = true) (hp : op.hasPhase ph = true)
    {level : Level}
    (hf : fetchPhase op ph k (reached s0 false ev m f l ls (.pos op ph k) dp) =
      .ok (.setLine .rst level, reached s0 false ev m f l ls (.pos op ph k) dp))
    (hadv : ∀ sample, advancePhase op ph k sample
      (reached s0 false (ev ++ [.setLine .rst level .ok]) m (f + 1) { l with rst := .driven level } ls
        (.pos op ph k) dp) = .ok t) :
    step (reached s0 done ev m f l ls (.pos op ph k) dp) = .next t := by
  have ha : attemptOf (.setLine .rst level) (reached s0 false ev m f l ls (.pos op ph k) dp) =
      some ⟨true, reached s0 false (ev ++ [.setLine .rst level .ok]) m (f + 1) { l with rst := .driven level } ls
        (.pos op ph k) dp⟩ := by
    simp only [attemptOf, Line.isOutput, if_true,
      setLine_ok (faultNext_eq_false (nextOk_of_noTransportFault (n := 1) (reached_noTransportFault hn _)))]
    simp [reached, State.record, State.driveLine, State.takeAnswer, Lines.drive]
  rw [reached_step hr hp hf ha, hadv]
  rfl

/-- A step that samples `BUSY`. -/
theorem reached_poll (hn : NoTransportFault s0) (hr : s0.port.rstN = true) (hp : op.hasPhase .poll = true)
    {level : Level} (hl : (busyAfter m s0.busy).level = level)
    (hadv : advancePoll op level
      (reached s0 false (ev ++ [.readBusy (.level level)]) (m + 1) (f + 1) l ls (.pos op .poll k) dp) = .ok t) :
    step (reached s0 done ev m f l ls (.pos op .poll k) dp) = .next t := by
  have ha : attemptOf (.readLine .busy) (reached s0 false ev m f l ls (.pos op .poll k) dp) =
      some ⟨true, reached s0 false (ev ++ [.readBusy (.level level)]) (m + 1) (f + 1) l ls (.pos op .poll k) dp⟩ := by
    have e : (reached s0 false ev m f l ls (.pos op .poll k) dp).busy.level = level := hl
    simp only [attemptOf, e,
      readBusy_ok (faultNext_eq_false (nextOk_of_noTransportFault (n := 1) (reached_noTransportFault hn _)))]
    simp [reached, State.record, State.takeSample, State.takeAnswer, busyAfter_next]
  rw [reached_step hr hp rfl ha]
  show outcomeOf (advancePoll op (busyAfter m s0.busy).level _) = _
  rw [hl, hadv]
  rfl

end
end

