-- ==== Sys2Proof/Laws/Environment.lean ====
section
/-! SUPPORT. What a step takes from the environment: samples of `BUSY` and fault answers, each from the front; so a premise
about all the answers to come holds after any step. And what presenting a request leaves alone. -/

open Sys2Proof Sys2Proof.Machine Host

/-! ### Presenting a request -/

section
variable (r : Request) (s : State)

@[simp] theorem Request.present_ls : (r.present s).ls = s.ls := rfl
@[simp] theorem Request.present_status : (r.present s).status = s.status := rfl
@[simp] theorem Request.present_run : (r.present s).run = s.run := rfl
@[simp] theorem Request.present_seq : (r.present s).seq = s.seq := rfl
@[simp] theorem Request.present_dp : (r.present s).dp = s.dp := rfl
@[simp] theorem Request.present_lines : (r.present s).lines = s.lines := rfl
@[simp] theorem Request.present_tr : (r.present s).tr = s.tr := rfl
@[simp] theorem Request.present_rstN : (r.present s).port.rstN = s.port.rstN := rfl
@[simp] theorem Request.present_opValid : (r.present s).port.opValid = true := rfl
@[simp] theorem Request.present_opCode : (r.present s).port.opCode = r.op.code := rfl
@[simp] theorem Request.present_bufLen : (r.present s).port.bufLen = r.bufLen := rfl
@[simp] theorem Request.present_busy : (r.present s).busy = s.busy := rfl
@[simp] theorem Request.present_faults : (r.present s).faults = s.faults := rfl
@[simp] theorem Request.present_freeCtr : (r.present s).freeCtr = s.freeCtr := rfl
@[simp] theorem Request.present_cfg : (r.present s).cfg = s.cfg := rfl

end

/-- The code of an operation decodes to its instruction. -/
@[simp] theorem decodeOpCode_code (op : Op) : decodeOpCode op.code = op.instr := by cases op <;> rfl

/-! ### A host that does nothing -/

@[simp] theorem HostAct.apply_none (s : State) : HostAct.none.apply s = s := rfl

/-- A host that does nothing between steps leaves the run of the machine alone. -/
theorem hostRuns_none (k : Nat) (s : State) : hostRuns (List.replicate k .none) s = runs k s := by
  induction k generalizing s with
  | zero => rfl
  | succ k ih =>
    simp only [List.replicate_succ, hostRuns, HostAct.apply_none, runs]
    cases step s with
    | next t => exact ih t
    | fault f => rfl
    | refused r => rfl

/-! ### Premises hold on -/

/-- Every wait from here on ends if every wait from an earlier sample on does. -/
theorem busyEventuallyHigh_later {s t : State} (h : BusyEventuallyHigh s) (m : Nat) (hb : t.busy = busyAfter m s.busy)
    (hc : t.cfg = s.cfg) : BusyEventuallyHigh t := by
  intro q
  rcases h (m + q) with ⟨n, hl⟩ | ⟨limit, hp, hl⟩
  · exact .inl ⟨n, by rwa [hb, busyAfter_add]⟩
  · exact .inr ⟨limit, by rwa [hc], fun k hk => by rw [hb, busyAfter_add, ← Nat.add_assoc]; exact hl k hk⟩

/-! ### What a step takes -/

/-- A frame takes fault answers from the front. -/
theorem transmitByte_faults (kind : Kind) (value : Byte) (s : State) :
    ∃ f, (transmitByte kind value s).st.faults = s.faults.drop f := by
  have effect : ∀ (stage : TxStage) (g : State → Attempt) (u : State), (g u).st.faults = u.faults.tail →
      (frameEffect kind value stage g u).st.faults = u.faults.tail := by
    intro stage g u hg
    rcases frameEffect_cases kind value stage g u with ⟨-, e⟩ | ⟨-, e⟩ <;> rw [e] <;> exact hg
  have drive : ∀ line level (u : State), (driveEffect line level u).st.faults = u.faults.tail := by
    intro line level u
    unfold driveEffect
    split <;> rfl
  have andThen : ∀ (a : Attempt) (g : State → Attempt), (∃ f, a.st.faults = s.faults.drop f) →
      (∀ u : State, (g u).st.faults = u.faults.tail ∨ (g u).st.faults = u.faults) →
      ∃ f, (a.andThen g).st.faults = s.faults.drop f := by
    rintro ⟨_ | _, st⟩ g ⟨f, hf⟩ hg
    · exact ⟨f, hf⟩
    · rcases hg st with e | e
      · exact ⟨f + 1, by rw [← List.tail_drop, ← hf]; exact e⟩
      · exact ⟨f, e.trans hf⟩
  unfold transmitByte
  refine andThen _ _ (andThen _ _ (andThen _ _ (andThen _ _ ⟨1, ?_⟩ ?_) ?_) ?_) fun _ => .inr rfl
  · rw [effect _ _ _ (drive _ _ _), List.drop_one]
  · exact fun u => .inl (effect _ _ _ (drive _ _ _))
  · exact fun u => .inl (effect _ _ _ rfl)
  · exact fun u => .inl (effect _ _ _ (drive _ _ _))

/-- A primitive takes samples and fault answers from the front. -/
theorem attemptOf_environment {i : Instr} {s : State} {a : Attempt} (h : attemptOf i s = some a) :
    ∃ m f, a.st.busy = busyAfter m s.busy ∧ a.st.faults = s.faults.drop f := by
  have frame : ∀ kind value, ∃ m f, (transmitByte kind value s).st.busy = busyAfter m s.busy ∧
      (transmitByte kind value s).st.faults = s.faults.drop f := fun kind value =>
    (transmitByte_faults kind value s).elim fun f hf => ⟨0, f, (transmitByte_spec kind value s).2.1, hf⟩
  cases i <;>
    simp only [attemptOf, vendorByte, Option.map_some, Option.map_none, Option.some.injEq, reduceCtorEq] at h
  case setLine line level =>
    split_ifs at h
    cases h
    refine ⟨0, 1, setLine_busy line level s, ?_⟩
    unfold setLine driveEffect
    cases s.faultNext <;> simp [State.record, State.driveLine, State.driveFailed, State.takeAnswer]
  case readLine line =>
    cases line <;> simp at h
    subst h
    cases hf : s.faultNext with
    | true => rw [readBusy_fault hf]; exact ⟨0, 1, rfl, List.drop_one.symm⟩
    | false => rw [readBusy_ok hf]; exact ⟨1, 1, rfl, List.drop_one.symm⟩
  case delay ms => subst h; exact ⟨0, 0, rfl, rfl⟩
  case cmdLut index =>
    cases hb : s.cfg.codes.lut[index]? with
    | none => simp [hb] at h
    | some b =>
      simp only [hb, Option.map_some, Option.some.injEq] at h
      subst h
      exact frame _ _
  all_goals subst h; exact frame _ _

/-- A step takes samples and fault answers from the front. -/
theorem step_environment {s t : State} (hrst : s.port.rstN = true) (h : step s = .next t) :
    ∃ m f, t.busy = busyAfter m s.busy ∧ t.faults = s.faults.drop f := by
  cases hr : s.run with
  | false =>
    rw [step_idle hrst hr] at h
    rcases idleStep_cases (s := s.clearDone) hr h with rfl | ⟨op, d, rfl⟩ <;> exact ⟨0, 0, rfl, rfl⟩
  | true =>
    rw [step_running hrst hr] at h
    obtain ⟨op, ph, k, -, -, ⟨-, he⟩ | ⟨-, i, s0, a, d, -, rfl, ha, hx⟩⟩ := runStep_cases (s := s.clearDone) hr h
    · cases exec_control (s := s.clearDone) hr he
      case pixel hpx =>
        obtain ⟨_, _, _, _, rfl, _⟩ := pixelStep_frame hpx
        exact ⟨0, 0, rfl, rfl⟩
      all_goals exact ⟨0, 0, rfl, rfl⟩
    · obtain ⟨m, f, hb, hf⟩ := attemptOf_environment ha
      rcases hx with ⟨-, hadv⟩ | ⟨-, rfl⟩
      · rcases advancePhase_cases hadv with ⟨_, _, _, rfl⟩ | ⟨_, _, rfl⟩ <;> exact ⟨m, f, hb, hf⟩
      · exact ⟨m, f, hb, hf⟩
end

