-- ==== Sys2Proof/Laws/HeldOff.lean ====
section
/-! SUPPORT. What a step of an operation in progress reads of the host: of the port only `rst_n` (41_protocol_driver.md R130), of
`IMG` only the pixel that `px_x` and `px_y` show, of `PBB` only the byte that `buf_addr` shows (20_memory.md R60, R61). -/

namespace Sys2Proof.Machine

open Host

/-- The state with this port and these memories. -/
def State.hosted (p : Port) (g : Image) (m : List Host.Cell) (s : State) : State := { s with port := p, img := g, pbb := m }

/-- The attempt with this port and these memories. -/
def Attempt.hosted (p : Port) (g : Image) (m : List Host.Cell) (a : Attempt) : Attempt := ⟨a.ok, a.st.hosted p g m⟩

/-- A next state with this port and these memories; a fault or a refusal as it is. -/
def hostedOutcome (p : Port) (g : Image) (m : List Host.Cell) : Outcome State Fault Refusal → Outcome State Fault Refusal
  | .next t => .next (t.hosted p g m)
  | .fault f => .fault f
  | .refused r => .refused r

section
variable (p : Port) (g : Image) (m : List Host.Cell) (s : State)

@[simp] theorem State.hosted_ls : (s.hosted p g m).ls = s.ls := rfl
@[simp] theorem State.hosted_status : (s.hosted p g m).status = s.status := rfl
@[simp] theorem State.hosted_run : (s.hosted p g m).run = s.run := rfl
@[simp] theorem State.hosted_seq : (s.hosted p g m).seq = s.seq := rfl
@[simp] theorem State.hosted_operands : (s.hosted p g m).operands = s.operands := rfl
@[simp] theorem State.hosted_dp : (s.hosted p g m).dp = s.dp := rfl
@[simp] theorem State.hosted_lines : (s.hosted p g m).lines = s.lines := rfl
@[simp] theorem State.hosted_tr : (s.hosted p g m).tr = s.tr := rfl
@[simp] theorem State.hosted_opDone : (s.hosted p g m).opDone = s.opDone := rfl
@[simp] theorem State.hosted_pbb : (s.hosted p g m).pbb = m := rfl
@[simp] theorem State.hosted_busy : (s.hosted p g m).busy = s.busy := rfl
@[simp] theorem State.hosted_faults : (s.hosted p g m).faults = s.faults := rfl
@[simp] theorem State.hosted_freeCtr : (s.hosted p g m).freeCtr = s.freeCtr := rfl
@[simp] theorem State.hosted_cfg : (s.hosted p g m).cfg = s.cfg := rfl
@[simp] theorem State.hosted_port : (s.hosted p g m).port = p := rfl
@[simp] theorem State.hosted_img : (s.hosted p g m).img = g := rfl

/-! ### The primitives -/

theorem driveEffect_hosted (line : Line) (level : Level) :
    driveEffect line level (s.hosted p g m) = (driveEffect line level s).hosted p g m := by
  unfold driveEffect
  show (match s.faultNext with | false => _ | true => _) = _
  cases s.faultNext <;> rfl

theorem Attempt.andThen_hosted (a : Attempt) {f f' : State → Attempt} (h : ∀ u : State, f' (u.hosted p g m) = (f u).hosted p g m) :
    (a.hosted p g m).andThen f' = (a.andThen f).hosted p g m := by
  obtain ⟨_ | _, st⟩ := a
  · rfl
  · exact h st

theorem frameEffect_hosted (kind : Kind) (value : Byte) (stage : TxStage) {f : State → Attempt}
    (h : f (s.hosted p g m) = (f s).hosted p g m) :
    frameEffect kind value stage f (s.hosted p g m) = (frameEffect kind value stage f s).hosted p g m := by
  unfold frameEffect
  rw [h]
  show (match (f s).ok with | true => _ | false => _) = _
  dsimp only
  cases (f s).ok <;> rfl

theorem transmitByte_hosted (kind : Kind) (value : Byte) :
    transmitByte kind value (s.hosted p g m) = (transmitByte kind value s).hosted p g m := by
  have drive := driveEffect_hosted p g m
  unfold transmitByte
  refine Eq.trans ?_ (Attempt.andThen_hosted p g m _ (f := fun u => ⟨true, u.record (.tx kind value .ok)⟩)
    (f' := fun u => ⟨true, u.record (.tx kind value .ok)⟩) fun _ => rfl)
  congr 1
  refine Eq.trans ?_ (Attempt.andThen_hosted p g m _ fun u => frameEffect_hosted p g m u _ _ _ (drive u _ _))
  congr 1
  refine Eq.trans ?_ (Attempt.andThen_hosted p g m _ fun u => frameEffect_hosted p g m u _ _ _ rfl)
  congr 1
  refine Eq.trans ?_ (Attempt.andThen_hosted p g m _ fun u => frameEffect_hosted p g m u _ _ _ (drive u _ _))
  congr 1
  exact frameEffect_hosted p g m s _ _ _ (drive s _ _)

/-- No primitive depends on the host's port or memories. -/
theorem attemptOf_hosted (i : Instr) : attemptOf i (s.hosted p g m) = (attemptOf i s).map (Attempt.hosted p g m) := by
  have tx := transmitByte_hosted p g m s
  cases i <;> simp only [attemptOf, vendorByte, Option.map_some, Option.map_none, State.hosted_cfg, tx]
  case setLine line level =>
    split_ifs
    · simp only [Option.map_some, setLine, driveEffect_hosted]
      cases h : (driveEffect line level s).ok <;> simp [Attempt.hosted, h] <;> rfl
    · rfl
  case readLine line =>
    cases line <;> try rfl
    unfold readBusy
    show some (match s.faultNext with | false => _ | true => _) = _
    cases s.faultNext <;> rfl
  case delay ms => rfl
  case cmdLut index => cases s.cfg.codes.lut[index]? <;> rfl

/-! ### The sequencer -/

/-- The instruction and the state that reading it leaves, with this port and these memories. -/
def hostedFetch (x : Except Fault (Instr × State)) : Except Fault (Instr × State) := x.map fun y => (y.1, y.2.hosted p g m)

theorem inState_hosted (e : Except Fault Instr) : inState (s.hosted p g m) e = hostedFetch p g m (inState s e) := by
  cases e <;> rfl

/-- The wire frame's position of `Display` reads `PBB` at BI, at pair 0. -/
theorem displayPair_hosted (h : s.dp.pp = some 0 → ∀ a, s.dp.bi = some a → pbbByte m a = pbbByte s.pbb a) :
    displayPair (s.hosted p g m) = hostedFetch p g m (displayPair s) := by
  unfold displayPair
  simp only [State.hosted_dp]
  cases hb : s.dp.bi with
  | none => rfl
  | some bi =>
    cases hp : s.dp.pp with
    | none => rfl
    | some pp =>
      have hl : loadWhenTaken bi pp (s.hosted p g m) = (loadWhenTaken bi pp s).map (State.hosted p g m) := by
        cases pp with
        | zero => simp only [loadWhenTaken, State.hosted_pbb, h hp bi hb]; cases pbbExists bi <;> rfl
        | succ => rfl
      simp only [readReg, hl]
      cases loadWhenTaken bi pp s with
      | error f => rfl
      | ok u =>
        simp only [Except.map, State.hosted_dp]
        cases u.dp.inv with
        | none => rfl
        | some inv => dsimp only; cases decodeWire (wireByte inv pp) <;> rfl

/-- A position reads nothing of the host but the byte of `PBB` that `Display` takes. -/
theorem fetchPhase_hosted (op : Op) (ph : Phase) (k : Nat)
    (h : op = .display → ph = .stream → s.dp.pp = some 0 → ∀ a, s.dp.bi = some a → pbbByte m a = pbbByte s.pbb a) :
    fetchPhase op ph k (s.hosted p g m) = hostedFetch p g m (fetchPhase op ph k s) := by
  cases ph <;> simp only [fetchPhase]
  case pulse => exact inState_hosted p g m s _
  case initCmd => exact inState_hosted p g m s _
  case initArg => exact inState_hosted p g m s _
  case stream =>
    split_ifs with ho
    · exact displayPair_hosted p g m s (h ho rfl)
    · rfl
  all_goals rfl

theorem enterInitStep_hosted (si : Nat) : enterInitStep si (s.hosted p g m) = (enterInitStep si s).hosted p g m := by
  unfold enterInitStep
  show (if si < s.cfg.initSeq.length then _ else _) = _
  split_ifs <;> rfl

theorem afterInitFrames_hosted (st : InitStep) (si : Nat) :
    afterInitFrames st si (s.hosted p g m) = (afterInitFrames st si s).hosted p g m := by
  unfold afterInitFrames
  cases st.wait
  · exact enterInitStep_hosted p g m s _
  · rfl

/-- The move to the next position reads nothing of the host. -/
theorem advancePhase_hosted (op : Op) (ph : Phase) (k : Nat) (level : Level) :
    advancePhase op ph k level (s.hosted p g m) = (advancePhase op ph k level s).map (State.hosted p g m) := by
  cases ph <;> simp only [advancePhase]
  case pulse =>
    refine congrArg Except.ok ?_
    unfold advancePulse afterPulse
    split_ifs
    · rfl
    · exact enterInitStep_hosted p g m (s.setLs .unpowered) 0
    · rfl
  case initCmd =>
    unfold advanceInitCmd
    show (match readReg DpReg.si s.dp.si, currentInitStep s with | .ok _, .ok _ => _ | .error _, _ => _ | .ok _, .error _ => _) = _
    cases readReg DpReg.si s.dp.si <;> cases currentInitStep s <;> try rfl
    dsimp only
    split_ifs
    · rfl
    · exact congrArg Except.ok (afterInitFrames_hosted p g m s _ _)
  case initArg =>
    unfold advanceInitArg
    show (match readReg DpReg.si s.dp.si, currentInitStep s, readReg DpReg.ai s.dp.ai with
      | .ok _, .ok _, .ok _ => _ | .error _, _, _ => _ | .ok _, .error _, _ => _ | .ok _, .ok _, .error _ => _) = _
    cases readReg DpReg.si s.dp.si <;> cases currentInitStep s <;> cases readReg DpReg.ai s.dp.ai <;> try rfl
    dsimp only
    split_ifs
    · rfl
    · exact congrArg Except.ok (afterInitFrames_hosted p g m s _ _)
  case stream =>
    unfold advanceStream
    simp only [State.hosted_dp]
    cases readReg DpReg.bi s.dp.bi <;> cases readReg DpReg.pp s.dp.pp <;> try rfl
    dsimp only
    split_ifs <;> rfl
  case poll =>
    cases level with
    | high =>
      cases op <;> try rfl
      show (match readReg DpReg.si s.dp.si with | .ok _ => _ | .error _ => _) =
        Except.map _ (match readReg DpReg.si s.dp.si with | .ok _ => _ | .error _ => _)
      cases readReg DpReg.si s.dp.si
      · rfl
      · exact congrArg Except.ok (enterInitStep_hosted p g m (endWait s) _)
    | low =>
      show advanceLow op _ = Except.map _ (advanceLow op s)
      unfold advanceLow
      simp only [State.hosted_dp, State.hosted_cfg]
      cases readReg DpReg.pc s.dp.pc with
      | error f => rfl
      | ok n => dsimp only; cases pollsExhausted s.cfg (n + 1) <;> rfl
  all_goals rfl

/-! ### The operation's own steps -/

theorem stateCheck_hosted (op : Op) {next : State → State} (h : next (s.hosted p g m) = (next s).hosted p g m) :
    stateCheck op next (s.hosted p g m) = (stateCheck op next s).hosted p g m := by
  unfold stateCheck
  simp only [State.hosted_ls]
  cases op.validIn s.ls
  · rfl
  · exact h

theorem displayCheck_hosted (k : Nat) : displayCheck k (s.hosted p g m) = (displayCheck k s).hosted p g m := by
  cases k with
  | zero => exact stateCheck_hosted p g m s .display rfl
  | succ k =>
    simp only [displayCheck, lengthCheck, State.hosted_operands]
    cases bufLenOk s.operands.len <;> rfl

theorem operate_hosted (op : Op) {check : Nat → State → State} (hr : s.run = true)
    (h : ∀ k, check k (s.hosted p g m) = (check k s).hosted p g m) :
    operate op check (s.hosted p g m) = (operate op check s).hosted p g m := by
  unfold operate
  simp only [State.hosted_run, State.hosted_seq, hr]
  cases s.seq with
  | idle => rfl
  | pos o ph k =>
    cases ph <;> dsimp only <;> first | rfl | (split_ifs <;> first | rfl | exact h _)

/-- An operation's instruction at a check or at completion, while an operation runs, reads nothing of the host. -/
theorem execOp_hosted (op : Op) (hr : s.run = true) (hx : ∀ k, s.seq ≠ .pos .convert .pixel k) :
    exec op.instr (s.hosted p g m) = hostedOutcome p g m (exec op.instr s) := by
  cases op <;> simp only [Op.instr, exec]
  case reset => exact congrArg Outcome.next (operate_hosted p g m s _ hr fun _ => rfl)
  case init => exact congrArg Outcome.next (operate_hosted p g m s _ hr fun _ => stateCheck_hosted p g m s _ rfl)
  case clear => exact congrArg Outcome.next (operate_hosted p g m s _ hr fun _ => stateCheck_hosted p g m s _ rfl)
  case display => exact congrArg Outcome.next (operate_hosted p g m s _ hr fun k => displayCheck_hosted p g m s k)
  case sleep => exact congrArg Outcome.next (operate_hosted p g m s _ hr fun _ => stateCheck_hosted p g m s _ rfl)
  case convert =>
    have own : Outcome.next (operate .convert (fun _ => id) (s.hosted p g m)) =
        hostedOutcome p g m (.next (operate .convert (fun _ => id) s)) :=
      congrArg Outcome.next (operate_hosted p g m s _ hr fun _ => rfl)
    unfold execConvert
    simp only [State.hosted_run, State.hosted_seq, hr]
    cases hs : s.seq with
    | idle => exact own
    | pos o ph k => cases o <;> cases ph <;> try exact own

/-- What `PBB` is after a step, from what it was: with the byte that the write ports show written (10_state.md R44). -/
def State.bufferAfter (s : State) (m : List Host.Cell) : List Host.Cell :=
  match s.cvWrite with
  | some (a, v) => memWrite pbbDefault m a v
  | none => m

/-- Where the next step is no pixel it writes no byte. -/
theorem State.bufferAfter_eq (hx : ∀ k, s.seq ≠ .pos .convert .pixel k) : s.bufferAfter m = m := by
  have hp : s.pixelAt = none := by
    unfold State.pixelAt
    split
    · rename_i hs _ _ _
      exact absurd hs (hx _)
    · rfl
  simp [State.bufferAfter, State.cvWrite, hp]

/-- A pixel reads nothing of the host but that pixel of `IMG`, and writes the byte that the write ports show. -/
theorem convertPixel_hosted {k : Nat} (ho : s.operating = true) (hs : s.seq = .pos .convert .pixel k)
    (hg : ∀ x y, s.pxX = some x → s.pxY = some y → g.pixel x y = s.img.pixel x y) :
    convertPixel (s.hosted p g m) = (convertPixel s).map (State.hosted p g (s.bufferAfter m)) := by
  unfold convertPixel
  simp only [State.hosted_dp]
  cases hi : s.dp.ci with
  | none => cases s.dp.cj <;> cases s.dp.acc <;> rfl
  | some i =>
    cases hj : s.dp.cj with
    | none => cases s.dp.acc <;> rfl
    | some j =>
      cases ha : s.dp.acc with
      | none => rfl
      | some acc =>
        have hp : s.pixelAt = some (i, j, acc) := by simp [State.pixelAt, ho, hs, hi, hj, ha]
        have bit : (s.hosted p g m).convertBit i j = s.convertBit i j := by
          show boundedBit s.cfg s.operands.w s.operands.h g i j = boundedBit s.cfg s.operands.w s.operands.h s.img i j
          unfold boundedBit
          cases hb : inBounds s.operands.w s.operands.h i j with
          | false => rfl
          | true => exact congrArg (quantize s.cfg) (hg i j (by simp [State.pxX, hp, hb]) (by simp [State.pxY, hp, hb]))
        have next : ∀ (a : Byte) (m' : List Host.Cell) (u : State),
            nextPixel i j a (u.hosted p g m') = (nextPixel i j a u).hosted p g m' := by
          intro a m' u
          unfold nextPixel
          split_ifs <;> rfl
        show pixelStep i j acc _ = Except.map _ (pixelStep i j acc s)
        unfold pixelStep
        simp only [bit]
        by_cases h7 : i % 8 = 7
        · have hw : s.bufferAfter m = memWrite pbbDefault m (pbbAddr i j) (accumulate acc (s.convertBit i j)) := by
            simp [State.bufferAfter, State.cvWrite, hp, h7, State.convertBit]
          simp only [h7, if_true, hw]
          cases pbbExists (pbbAddr i j)
          · rfl
          · exact congrArg Except.ok (next _ _ (s.writePbb _ _))
        · have hw : s.bufferAfter m = m := by simp [State.bufferAfter, State.cvWrite, hp, h7]
          simp only [h7, if_false, hw]
          exact congrArg Except.ok (next _ _ s)

/-! ### The step -/

/-- While an operation runs, the step reads nothing of the host but `rst_n`, the pixel at `px_x` and `px_y` and the byte at
`buf_addr`; and of `PBB` it writes what the write ports show. -/
theorem step_hosted (hr : s.run = true) (hp : p.rstN = s.port.rstN)
    (hg : ∀ x y, s.pxX = some x → s.pxY = some y → g.pixel x y = s.img.pixel x y)
    (hm : ∀ a, s.bufAddr = some a → pbbByte m a = pbbByte s.pbb a) :
    step (s.hosted p g m) = hostedOutcome p g (s.bufferAfter m) (step s) := by
  cases hrst : s.port.rstN with
  | false =>
    have hw : s.bufferAfter m = m := by simp [State.bufferAfter, State.cvWrite, State.pixelAt, State.operating, hrst]
    rw [step_blockReset hrst, step_blockReset (s := s.hosted p g m) (hp.trans hrst), hw]
    rfl
  | true =>
    have ho : s.clearDone.operating = true := by simp [State.operating, hrst, hr]
    rw [step_running hrst hr, step_running (s := s.hosted p g m) (hp.trans hrst) hr]
    change ∀ x y, s.clearDone.pxX = some x → s.clearDone.pxY = some y → g.pixel x y = s.clearDone.img.pixel x y at hg
    change ∀ a, s.clearDone.bufAddr = some a → pbbByte m a = pbbByte s.clearDone.pbb a at hm
    show runStep (s.clearDone.hosted p g m) = hostedOutcome p g (s.clearDone.bufferAfter m) (runStep s.clearDone)
    have hru : s.clearDone.run = true := hr
    generalize s.clearDone = u at ho hg hm hru
    cases hs : u.seq with
    | idle => simp [runStep, fetch, hs, hostedOutcome]
    | pos op ph k =>
      have hs' : (u.hosted p g m).seq = .pos op ph k := hs
      cases hph : op.hasPhase ph with
      | false => simp [runStep, fetch, hs, hph, hostedOutcome]
      | true =>
        have hf := fetch_pos hs hph
        have hf' := (fetch_pos hs' hph).trans (fetchPhase_hosted p g m u op ph k fun h1 h2 h3 a h4 =>
          hm a (by subst h1 h2; simp [State.bufAddr, ho, hs, h3, h4]))
        have hadv : ∀ (level : Level) (n : List Host.Cell) (w : State),
            outcomeOf (advance (.pos op ph k) level (w.hosted p g n)) =
              hostedOutcome p g n (outcomeOf (advance (.pos op ph k) level w)) := by
          intro level n w
          unfold advance
          simp only [State.hosted_run]
          cases w.run
          · rfl
          · simp only [advancePhase_hosted]
            cases advancePhase op ph k level w <;> rfl
        cases hc : isControl ph with
        | true =>
          rw [fetchPhase_control hc] at hf hf'
          simp only [runStep, hf, hf', hostedFetch, Except.map, hs, hs', State.hosted_busy]
          have he : exec op.instr (u.hosted p g m) = hostedOutcome p g (u.bufferAfter m) (exec op.instr u) := by
            by_cases hx : ∃ k', u.seq = .pos .convert .pixel k'
            · obtain ⟨k', hk⟩ := hx
              rw [hs] at hk
              cases hk
              simp only [Op.instr, exec, execConvert, State.hosted_run, State.hosted_seq, hru, hs,
                convertPixel_hosted p g m u ho hs hg]
              cases convertPixel u <;> rfl
            · have hx' : ∀ k', u.seq ≠ .pos .convert .pixel k' := fun k' h => hx ⟨k', h⟩
              rw [State.bufferAfter_eq m u hx']
              exact execOp_hosted p g m u op hru hx'
          rw [he]
          cases exec op.instr u with
          | next t => exact hadv _ _ t
          | fault f => rfl
          | refused r => rfl
        | false =>
          have hx : ∀ k', u.seq ≠ .pos .convert .pixel k' := by
            rintro k' h
            rw [hs] at h
            cases h
            simp [isControl] at hc
          rw [State.bufferAfter_eq m u hx]
          cases hq : fetchPhase op ph k u with
          | error e =>
            rw [hq] at hf hf'
            simp only [runStep, hf, hf', hostedFetch, Except.map]
            rfl
          | ok x =>
            obtain ⟨i, u0⟩ := x
            obtain ⟨⟨a, ha⟩, -⟩ := fetchPhase_attempt hc hq
            have ha' : attemptOf i (u0.hosted p g m) = some (a.hosted p g m) := by rw [attemptOf_hosted, ha]; rfl
            rw [hq] at hf hf'
            simp only [runStep, hf, hf', hostedFetch, Except.map, hs, hs', exec_of_attempt ha, exec_of_attempt ha',
              State.hosted_busy]
            have settle : (a.hosted p g m).settle = a.settle.hosted p g m := by
              obtain ⟨_ | _, _⟩ := a <;> rfl
            rw [settle]
            exact hadv _ m a.settle

end

/-- `px_x` and `px_y` show a pixel within the bounds of the request. -/
theorem State.px_inBounds {s : State} {x y : Nat} (hx : s.pxX = some x) (hy : s.pxY = some y) :
    x < s.operands.w ∧ y < s.operands.h := by
  unfold State.pxX at hx
  unfold State.pxY at hy
  cases hp : s.pixelAt with
  | none => simp [hp] at hx
  | some q =>
    obtain ⟨i, j, acc⟩ := q
    simp only [hp] at hx hy
    split_ifs at hx hy with hb
    cases hx
    cases hy
    simpa [inBounds] using hb

/-- A step of an operation in progress touches neither the port nor the operands of its request. -/
theorem step_keeps_request {s t : State} (hr : s.run = true) (hrst : s.port.rstN = true) (h : step s = .next t) :
    t.port = s.port ∧ t.operands = s.operands := by
  rcases step_cases hrst h with ⟨hr', -⟩ | ⟨-, op, ph, k, -, -, hstep⟩
  · simp [hr] at hr'
  cases hstep with
  | control hc he =>
    cases he
    case pixel hpx =>
      obtain ⟨_, _, _, _, rfl, -⟩ := pixelStep_frame hpx
      exact ⟨rfl, rfl⟩
    all_goals exact ⟨rfl, rfl⟩
  | moved i s0 a d hc hf hd ha hok h =>
    have same := (attemptOf_spec ha).1
    subst hd
    rcases advancePhase_cases h with ⟨_, _, _, rfl⟩ | ⟨-, _, rfl⟩ <;> exact ⟨same.port, same.operands⟩
  | faulted i s0 a d hc hf hd ha hok h =>
    have same := (attemptOf_spec ha).1
    subst hd h
    exact ⟨same.port, same.operands⟩

end Sys2Proof.Machine
end

