-- ==== Sys2Proof/Laws/Memory.lean ====
section
/-! SUPPORT. The laws of the sparse memories: read after write, and that every memory operation keeps the canonical form. -/

namespace Sys2Proof.Machine

section
variable {α : Type} [DecidableEq α] {d : α} {hi : Nat}

/-- A canonical memory from `lo` on lists nothing below `lo`. -/
theorem memRead_below {lo a : Nat} {m : List (Nat × α)} (h : memWfFrom d hi lo m = true) (ha : a < lo) :
    memRead d m a = d := by
  induction m generalizing lo with
  | nil => rfl
  | cons e rest ih =>
    obtain ⟨k, v⟩ := e
    simp only [memWfFrom, Bool.and_eq_true, decide_eq_true_eq] at h
    have hk : k ≠ a := by omega
    simp only [memRead, if_neg hk]
    exact ih h.2 (by omega)

/-- A lower bound can be lowered. -/
theorem memWfFrom_mono {lo lo' : Nat} {m : List (Nat × α)} (h : memWfFrom d hi lo m = true) (hl : lo' ≤ lo) :
    memWfFrom d hi lo' m = true := by
  cases m with
  | nil => rfl
  | cons e rest =>
    obtain ⟨k, v⟩ := e
    simp only [memWfFrom, Bool.and_eq_true, decide_eq_true_eq] at h ⊢
    exact ⟨⟨⟨by omega, h.1.1.2⟩, h.1.2⟩, h.2⟩

/-- A read at the address written gives the value written. -/
theorem memRead_memWrite_same {lo : Nat} {m : List (Nat × α)} (h : memWfFrom d hi lo m = true) (a : Nat) (v : α) :
    memRead d (memWrite d m a v) a = v := by
  induction m generalizing lo with
  | nil => by_cases hv : v = d <;> simp [memWrite, memRead, hv]
  | cons e rest ih =>
    obtain ⟨k, w⟩ := e
    simp only [memWfFrom, Bool.and_eq_true, decide_eq_true_eq] at h
    simp only [memWrite]
    split_ifs with h1 h2 h3 h4
    · have hk : k ≠ a := by omega
      simp only [memRead, if_neg hk]
      rw [h2]; exact memRead_below h.2 (by omega)
    · simp [memRead]
    · rw [h4]; exact memRead_below h.2 (by omega)
    · simp [memRead]
    · have hk : k ≠ a := fun e => h3 e.symm
      simp only [memRead, if_neg hk]
      exact ih h.2

/-- A read at another address is as before the write. -/
theorem memRead_memWrite_ne {m : List (Nat × α)} {a b : Nat} (v : α) (hab : b ≠ a) :
    memRead d (memWrite d m a v) b = memRead d m b := by
  induction m with
  | nil => by_cases hv : v = d <;> simp [memWrite, memRead, hv, hab.symm]
  | cons e rest ih =>
    obtain ⟨k, w⟩ := e
    simp only [memWrite]
    split_ifs with h1 h2 h3 h4
    · rfl
    · simp [memRead, hab.symm]
    · have : k ≠ b := by omega
      simp [memRead, this]
    · have : k ≠ b := by omega
      simp [memRead, hab.symm, this]
    · simp only [memRead, ih]

/-- A write keeps the canonical form. -/
theorem memWrite_wf {lo : Nat} {m : List (Nat × α)} (h : memWfFrom d hi lo m = true) {a : Nat} (v : α) (hlo : lo ≤ a)
    (ha : a < hi) : memWfFrom d hi lo (memWrite d m a v) = true := by
  induction m generalizing lo with
  | nil => by_cases hv : v = d <;> simp [memWrite, memWfFrom, hv, hlo, ha]
  | cons e rest ih =>
    obtain ⟨k, w⟩ := e
    have hm := h
    simp only [memWfFrom, Bool.and_eq_true, decide_eq_true_eq] at h
    simp only [memWrite]
    split_ifs with h1 h2 h3 h4
    · exact hm
    · simp only [memWfFrom, Bool.and_eq_true, decide_eq_true_eq]
      exact ⟨⟨⟨hlo, ha⟩, h2⟩, ⟨⟨by omega, h.1.1.2⟩, h.1.2⟩, h.2⟩
    · exact memWfFrom_mono h.2 (by omega)
    · simp only [memWfFrom, Bool.and_eq_true, decide_eq_true_eq]
      exact ⟨⟨⟨hlo, ha⟩, h4⟩, by subst h3; exact h.2⟩
    · simp only [memWfFrom, Bool.and_eq_true, decide_eq_true_eq]
      exact ⟨⟨⟨h.1.1.1, h.1.1.2⟩, h.1.2⟩, ih h.2 (by omega)⟩

end

/-- A byte of `PBB` written is the byte read there. -/
theorem pbbByte_writePbb_same {s : State} {hi : Nat} (h : memWf pbbDefault hi s.pbb = true) (a : Nat) (v : Byte) :
    pbbByte (s.writePbb a v).pbb a = v := memRead_memWrite_same h a v

/-- Every other byte of `PBB` is as it was. -/
theorem pbbByte_writePbb_ne {s : State} {a b : Nat} (v : Byte) (h : b ≠ a) :
    pbbByte (s.writePbb a v).pbb b = pbbByte s.pbb b := memRead_memWrite_ne v h

/-- A write to an address that exists keeps `PBB` canonical. -/
theorem writePbb_wf {s : State} {hi : Nat} (h : memWf pbbDefault hi s.pbb = true) {a : Nat} (v : Byte) (ha : a < hi) :
    memWf pbbDefault hi (s.writePbb a v).pbb = true := memWrite_wf h v (Nat.zero_le a) ha

/-! ### The image -/

/-- A pixel within the image is read from its place in the list. -/
theorem Image.pixel_of_contains {img : Image} {x y : Nat} (h : img.contains x y = true) :
    img.pixel x y = memRead imgDefault img.px (x + y * img.w) := by
  simp [Image.pixel, h]

/-- An image that lists no pixel is white. -/
theorem Image.pixel_of_empty {img : Image} (h : img.px = []) (x y : Nat) : img.pixel x y = imgDefault := by
  unfold Image.pixel
  split <;> simp [h, memRead]

end Sys2Proof.Machine
end

