-- ==== Sys2Proof/Laws/PerInstr.lean ====
section
/-! SUPPORT. Statements made per instruction, about the instruction as syntax. The family `Codec`: a well-formed instruction
that has a word is read back from it, whatever bytes follow. -/

namespace Sys2Proof.Laws

/-- Under every choice of the parameters `CMD_*`, decoding the word of a well-formed instruction gives what the word stands
for, and the bytes after it. -/
def Codec.Statement (i : Instr) : Prop :=
  ∀ (c : CommandCodes) (rest : List Byte) (format : Format) (bytes : List Byte), WellFormed i = true →
    encode c i = some (format, bytes) → decode format (bytes ++ rest) = .ok (wordMeaning c i, rest)

theorem Codec.reset : Codec.Statement .reset := by
  intro c rest format bytes _ h
  cases h
  rfl

theorem Codec.init : Codec.Statement .init := by
  intro c rest format bytes _ h
  cases h
  rfl

theorem Codec.clear : Codec.Statement .clear := by
  intro c rest format bytes _ h
  cases h
  rfl

theorem Codec.display : Codec.Statement .display := by
  intro c rest format bytes _ h
  cases h
  rfl

theorem Codec.sleep : Codec.Statement .sleep := by
  intro c rest format bytes _ h
  cases h
  rfl

theorem Codec.convert : Codec.Statement .convert := by
  intro c rest format bytes _ h
  cases h
  rfl

theorem Codec.reserved110 : Codec.Statement .reserved110 := by
  intro c rest format bytes _ h
  cases h
  rfl

theorem Codec.reserved111 : Codec.Statement .reserved111 := by
  intro c rest format bytes _ h
  cases h
  rfl

theorem Codec.turnOnDisplay : Codec.Statement .turnOnDisplay := by
  intro c rest format bytes _ h
  cases h

theorem Codec.busyWait : Codec.Statement .busyWait := by
  intro c rest format bytes _ h
  cases h

theorem Codec.encode : Codec.Statement .encode := by
  intro c rest format bytes _ h
  cases h

theorem Codec.expandByteToNibblePairs (b : Byte) : Codec.Statement (.expandByteToNibblePairs b) := by
  intro c rest format bytes _ h
  cases h

theorem Codec.setLine (line : Line) (level : Level) : Codec.Statement (.setLine line level) := by
  intro c rest format bytes _ h
  cases h

theorem Codec.readLine (line : Line) : Codec.Statement (.readLine line) := by
  intro c rest format bytes _ h
  cases h

theorem Codec.transmitByte (kind : Kind) (value : Byte) : Codec.Statement (.transmitByte kind value) := by
  intro c rest format bytes _ h
  cases h

theorem Codec.pulseReset (pattern : List PulseEntry) : Codec.Statement (.pulseReset pattern) := by
  intro c rest format bytes _ h
  cases h

theorem Codec.delay (ms : Nat) : Codec.Statement (.delay ms) := by
  intro c rest format bytes _ h
  cases h

theorem Codec.frameCommand (value : Byte) : Codec.Statement (.frameCommand value) := by
  intro c rest format bytes _ h
  cases h
  exact decode_command_word value rest

theorem Codec.frameData (value : Byte) : Codec.Statement (.frameData value) := by
  intro c rest format bytes _ h
  cases h
  exact decode_data_word value rest

theorem Codec.cmdPanelSetting : Codec.Statement .cmdPanelSetting := fun c rest _ _ _ h => decode_commandWord c .cmdPanelSetting rest h

theorem Codec.cmdPowerSetting : Codec.Statement .cmdPowerSetting := fun c rest _ _ _ h => decode_commandWord c .cmdPowerSetting rest h

theorem Codec.cmdPowerOff : Codec.Statement .cmdPowerOff := fun c rest _ _ _ h => decode_commandWord c .cmdPowerOff rest h

theorem Codec.cmdPowerOn : Codec.Statement .cmdPowerOn := fun c rest _ _ _ h => decode_commandWord c .cmdPowerOn rest h

theorem Codec.cmdBoosterSoftStart : Codec.Statement .cmdBoosterSoftStart := fun c rest _ _ _ h => decode_commandWord c .cmdBoosterSoftStart rest h

theorem Codec.cmdDeepSleep : Codec.Statement .cmdDeepSleep := fun c rest _ _ _ h => decode_commandWord c .cmdDeepSleep rest h

theorem Codec.cmdDataStartTransmission : Codec.Statement .cmdDataStartTransmission := fun c rest _ _ _ h => decode_commandWord c .cmdDataStartTransmission rest h

theorem Codec.cmdDataStop : Codec.Statement .cmdDataStop := fun c rest _ _ _ h => decode_commandWord c .cmdDataStop rest h

theorem Codec.cmdDisplayRefresh : Codec.Statement .cmdDisplayRefresh := fun c rest _ _ _ h => decode_commandWord c .cmdDisplayRefresh rest h

theorem Codec.cmdPllControl : Codec.Statement .cmdPllControl := fun c rest _ _ _ h => decode_commandWord c .cmdPllControl rest h

theorem Codec.cmdTemperatureCalibration : Codec.Statement .cmdTemperatureCalibration := fun c rest _ _ _ h => decode_commandWord c .cmdTemperatureCalibration rest h

theorem Codec.cmdVcomAndDataIntervalSetting : Codec.Statement .cmdVcomAndDataIntervalSetting := fun c rest _ _ _ h => decode_commandWord c .cmdVcomAndDataIntervalSetting rest h

theorem Codec.cmdTconSetting : Codec.Statement .cmdTconSetting := fun c rest _ _ _ h => decode_commandWord c .cmdTconSetting rest h

theorem Codec.cmdTconResolution : Codec.Statement .cmdTconResolution := fun c rest _ _ _ h => decode_commandWord c .cmdTconResolution rest h

theorem Codec.cmdFlashControl : Codec.Statement .cmdFlashControl := fun c rest _ _ _ h => decode_commandWord c .cmdFlashControl rest h

theorem Codec.cmdRevision : Codec.Statement .cmdRevision := fun c rest _ _ _ h => decode_commandWord c .cmdRevision rest h

theorem Codec.cmdGetStatus : Codec.Statement .cmdGetStatus := fun c rest _ _ _ h => decode_commandWord c .cmdGetStatus rest h

theorem Codec.cmdVcomAutoMeasure : Codec.Statement .cmdVcomAutoMeasure := fun c rest _ _ _ h => decode_commandWord c .cmdVcomAutoMeasure rest h

theorem Codec.cmdVcomRead : Codec.Statement .cmdVcomRead := fun c rest _ _ _ h => decode_commandWord c .cmdVcomRead rest h

theorem Codec.cmdVcmDcSetting : Codec.Statement .cmdVcmDcSetting := fun c rest _ _ _ h => decode_commandWord c .cmdVcmDcSetting rest h

theorem Codec.cmdFlashMode : Codec.Statement .cmdFlashMode := fun c rest _ _ _ h => decode_commandWord c .cmdFlashMode rest h

theorem Codec.cmdLut (index : Nat) : Codec.Statement (.cmdLut index) := fun c rest _ _ _ h => decode_commandWord c (.cmdLut index) rest h

theorem Codec.wire00 : Codec.Statement .wire00 := by
  intro c rest format bytes _ h
  cases h
  rfl

theorem Codec.wire03 : Codec.Statement .wire03 := by
  intro c rest format bytes _ h
  cases h
  rfl

theorem Codec.wire30 : Codec.Statement .wire30 := by
  intro c rest format bytes _ h
  cases h
  rfl

theorem Codec.wire33 : Codec.Statement .wire33 := by
  intro c rest format bytes _ h
  cases h
  rfl

end Sys2Proof.Laws
end

