-- ==== Sys2Proof/Laws/WireEncoder.lean ====
section
/-! SUPPORT. What sending data frames in sequence leaves: pairs, a byte, a buffer. -/

namespace Sys2Proof.Machine

/-- The state after the data frames of `bytes`, none of whose effects fails, with these registers. -/
def afterData (bytes : List Byte) (d : Datapath) (s : State) : State :=
  { s with
    faults := s.faults.drop (4 * bytes.length)
    lines := match bytes with
      | [] => s.lines
      | _ :: _ => frameLines s.cfg .data s.lines
    dp := d
    tr := s.tr ++ wireEvents bytes }

theorem afterData_nil (s : State) : afterData [] s.dp s = s := by
  simp [afterData, wireEvents]

theorem afterData_append (xs ys : List Byte) (d e : Datapath) (s : State) :
    afterData ys e (afterData xs d s) = afterData (xs ++ ys) e s := by
  cases xs <;> cases ys <;> simp [afterData, wireEvents, frameLines, List.drop_drop]
  omega

theorem afterData_one (b : Byte) (s : State) : afterFrame .data b s = afterData [b] s.dp s := by
  simp [afterFrame, afterData, wireEvents, dataEvent]

theorem nextOk_afterData {m : Nat} {bytes : List Byte} {d : Datapath} {s : State}
    (h : NextOk (4 * bytes.length + m) s) : NextOk m (afterData bytes d s) := nextOk_drop h rfl

/-- Data frames of a list of pairs. -/
theorem sendPairs_ok (inv : Byte) (n pp : Nat) (s : State) (h : NextOk (4 * n) s) :
    sendPairs inv n pp s =
      ⟨true, afterData ((List.range' pp n).map (wireByte inv))
        (match n with
          | 0 => s.dp
          | n + 1 => { s.dp with pp := some (pp + n) }) s⟩ := by
  induction n generalizing pp s with
  | zero => simp [sendPairs, afterData_nil]
  | succ n ih =>
    have h4 : NextOk 4 (setPair pp s) := nextOk_drop (n := 0) (m := 4) (s := s) (fun a ha => h a (by
      have := List.take_subset_take_left s.faults (show 0 + 4 ≤ 4 * (n + 1) by omega)
      exact this ha)) (by simp [setPair])
    have e1 : afterFrame .data (wireByte inv pp) (setPair pp s) =
        afterData [wireByte inv pp] { s.dp with pp := some pp } s := by
      rw [afterData_one]; rfl
    simp only [sendPairs, sendData, transmitByte_ok h4, Attempt.andThen, e1]
    rw [ih]
    · rw [afterData_append]
      cases n with
      | zero => simp [List.range']; rfl
      | succ n =>
        have : pp + 1 + n = pp + (n + 1) := by omega
        simp [List.range', this, afterData]
    · apply nextOk_afterData
      have : 4 * [wireByte inv pp].length + 4 * n = 4 * (n + 1) := by simp; omega
      rw [this]; exact h

/-- The data frames of one input byte. -/
theorem sendByte_ok (b : Byte) (s : State) (h : NextOk 16 s) :
    sendByte b s = ⟨true, afterData (expandPairs b) { s.dp with inv := some (~~~b), pp := some 3 } s⟩ := by
  have h' : NextOk (4 * 4) (loadInv b s) := h
  rw [sendByte, sendPairs_ok _ _ _ _ h']
  have e : (List.range' 0 4).map (wireByte (~~~b)) = expandPairs b := by
    simp [expandPairs, List.range_eq_range']
  rw [e]
  rfl

/-- The data frames of a buffer. -/
theorem sendBuffer_ok (n a : Nat) (s : State) (h : NoTransportFault s) :
    ∃ d, sendBuffer n a s = ⟨true, afterData (wireStream s.pbb n a) d s⟩ := by
  induction n generalizing a s with
  | zero => exact ⟨s.dp, by simp [sendBuffer, wireStream, afterData_nil]⟩
  | succ n ih =>
    have h16 : NextOk 16 (s.setDp { s.dp with bi := some a }) :=
      nextOk_of_noTransportFault (noTransportFault_congr h rfl)
    simp only [sendBuffer, sendByte_ok _ _ h16, Attempt.andThen]
    obtain ⟨d, hd⟩ := ih (a + 1)
      (afterData (expandPairs (pbbByte s.pbb a))
        { s.dp with bi := some a, inv := some (~~~(pbbByte s.pbb a)), pp := some 3 } s)
      (noTransportFault_drop h rfl)
    refine ⟨d, ?_⟩
    have e2 : wireStream s.pbb (n + 1) a = expandPairs (pbbByte s.pbb a) ++ wireStream s.pbb n (a + 1) := rfl
    rw [e2, ← afterData_append (expandPairs (pbbByte s.pbb a)) _
      { s.dp with bi := some a, inv := some (~~~(pbbByte s.pbb a)), pp := some 3 } d s]
    exact hd

/-- A buffer of `n` bytes gives `4 * n` wire bytes. -/
theorem wireStream_length (m : List Host.Cell) (n a : Nat) : (wireStream m n a).length = 4 * n := by
  induction n generalizing a with
  | zero => rfl
  | succ n ih => simp [wireStream, ih, expandPairs]; omega

end Sys2Proof.Machine
end

