-- ==== Sys2Proof/Tests/Slice0.lean ====
section
/-! SUPPORT. Tests, each on one step of a small state, with expected values from 95_test_vectors.md (T numbers) and the tables
of 30_encoding.md; then, for every obligation with hypotheses, states and operands that meet them. -/

open Sys2Proof Sys2Proof.Machine Host

namespace Sys2Proof.Tests

/-! ### Helpers -/

/-- Ready, and a panel that answers `script` and then high. -/
def ready (script : List Level) : State :=
  { State.reset with ls := .ready, busy := ⟨script, some .high, 0⟩ }

/-- `s` with these fault answers. -/
def answered (faults : List FaultAnswer) (s : State) : State := { s with faults := faults }

/-- `s` with this bound on the low samples. -/
def bounded (polls : Option Nat) (s : State) : State :=
  { s with cfg := { s.cfg with busyTimeoutPolls := polls } }

/-- An operation at a position, its operands those at the ports. -/
def running (op : Op) (ph : Phase) (k : Nat) (dp : Datapath) (s : State) : State :=
  { s with run := true, seq := .pos op ph k, operands := s.offeredOperands, dp := dp }

/-- PC at `n`. -/
def polled (n : Nat) : Datapath := { Datapath.empty with pc := some n }

/-- SI at `n`. -/
def stepAt (n : Nat) : Datapath := { Datapath.empty with si := some n }

/-- BI and PP. -/
def pairAt (bi pp : Nat) : Datapath := { Datapath.empty with bi := some bi, pp := some pp }

/-- CI, CJ and ACC. -/
def pixelAt (i j : Nat) (acc : Byte) : Datapath := { Datapath.empty with ci := some i, cj := some j, acc := some acc }

/-- The state of an outcome that has one. -/
def stateOf : Outcome State Fault Refusal → Option State
  | .next s => some s
  | .fault _ => none
  | .refused _ => none

/-- The trace after an instruction. -/
def traceAfter (i : Instr) (s : State) : Option (List Event) := (stateOf (exec i s)).map (·.tr)

/-- The latches after an instruction. -/
def linesAfter (i : Instr) (s : State) : Option Lines := (stateOf (exec i s)).map (·.lines)

/-- LS, STATUS, RUN and SEQ after an outcome. -/
def controlOf (o : Outcome State Fault Refusal) : Option (Lifecycle × Status × Bool × Seq) :=
  (stateOf o).map fun s => (s.ls, s.status, s.run, s.seq)

/-- LS, STATUS, RUN and SEQ after an instruction. -/
def controlAfter (i : Instr) (s : State) : Option (Lifecycle × Status × Bool × Seq) := controlOf (exec i s)

/-- A one-colour image. -/
def plain (w h : Nat) (black : List Nat) : Image := ⟨w, h, black.map fun k => (k, 0x000000#24)⟩

/-! ### WellFormed -/

theorem test_wf_setLine_busy_is_ill_formed : WellFormed (.setLine .busy .low) = false := by decide
theorem test_wf_readLine_dc_is_ill_formed : WellFormed (.readLine .dc) = false := by decide
theorem test_wf_cmdLut_10_is_ill_formed : WellFormed (.cmdLut 10) = false := by decide
theorem test_wf_accepts : WellFormed (.setLine .rst .low) = true ∧ WellFormed (.readLine .busy) = true ∧
    WellFormed (.cmdLut 9) = true := by decide

/-! ### Decoding, from the encodings of 30_encoding.md R82, R83, R84, R89 -/

theorem test_decode_opreq :
    decode .opreq [0b00000000#8] = .ok (.reset, []) ∧ decode .opreq [0b00000001#8] = .ok (.init, []) ∧
    decode .opreq [0b00000010#8] = .ok (.clear, []) ∧ decode .opreq [0b00000011#8] = .ok (.display, []) ∧
    decode .opreq [0b00000100#8] = .ok (.sleep, []) ∧ decode .opreq [0b00000101#8] = .ok (.convert, []) ∧
    decode .opreq [0b00000110#8] = .ok (.reserved110, []) ∧
    decode .opreq [0b00000111#8, 0xAA#8] = .ok (.reserved111, [0xAA#8]) := by
  refine ⟨rfl, rfl, rfl, rfl, rfl, rfl, rfl, rfl⟩

theorem test_decode_opreq_rejects : decode .opreq [0b00001000#8] = .error .bitsAboveTheFormat ∧
    decode .opreq [] = .error .tooShort := by refine ⟨rfl, rfl⟩

/-- `0cccccccc` and `1dddddddd`: T20's frames. -/
theorem test_decode_frame :
    decode .frame [0b00010010#8, 0b00000000#8] = .ok (.frameCommand 0x12#8, []) ∧
    decode .frame [0b00110011#8, 0b00000001#8] = .ok (.frameData 0x33#8, []) ∧
    decode .frame [0b10000000#8, 0b00000001#8] = .ok (.frameData 0x80#8, []) := by refine ⟨rfl, rfl, rfl⟩

theorem test_decode_frame_rejects : decode .frame [0x12#8, 0b00000010#8] = .error .bitsAboveTheFormat ∧
    decode .frame [0x12#8] = .error .tooShort := by refine ⟨rfl, rfl⟩

theorem test_decode_wire :
    decode .wire [0b00000000#8] = .ok (.wire00, []) ∧ decode .wire [0b00000011#8] = .ok (.wire03, []) ∧
    decode .wire [0b00110000#8] = .ok (.wire30, []) ∧ decode .wire [0b00110011#8] = .ok (.wire33, []) := by
  refine ⟨rfl, rfl, rfl, rfl⟩

/-- R89: no other nibble is a pixel code. -/
theorem test_decode_wire_rejects : decode .wire [0x13#8] = .error .notAWireByte ∧
    decode .wire [0x3F#8] = .error .notAWireByte ∧ decode .wire [0x01#8] = .error .notAWireByte := by
  refine ⟨rfl, rfl, rfl⟩

/-- Commands of R90 with their default bytes. -/
def vendorWordsA : List (Instr × Byte) :=
  [(.cmdPanelSetting, 0x00#8), (.cmdPowerSetting, 0x01#8), (.cmdPowerOff, 0x02#8), (.cmdPowerOn, 0x04#8),
    (.cmdBoosterSoftStart, 0x06#8), (.cmdDeepSleep, 0x07#8), (.cmdDataStartTransmission, 0x10#8), (.cmdDataStop, 0x11#8),
    (.cmdDisplayRefresh, 0x12#8), (.cmdLut 0, 0x20#8), (.cmdLut 9, 0x29#8)]

/-- The others. -/
def vendorWordsB : List (Instr × Byte) :=
  [(.cmdPllControl, 0x30#8), (.cmdTemperatureCalibration, 0x41#8), (.cmdVcomAndDataIntervalSetting, 0x50#8),
    (.cmdTconSetting, 0x60#8), (.cmdTconResolution, 0x61#8), (.cmdFlashControl, 0x65#8), (.cmdRevision, 0x70#8),
    (.cmdGetStatus, 0x71#8), (.cmdVcomAutoMeasure, 0x80#8), (.cmdVcomRead, 0x81#8), (.cmdVcmDcSetting, 0x82#8),
    (.cmdFlashMode, 0xE5#8)]

/-- The command words of R90 with the default bytes. -/
def vendorWords : List (Instr × Byte) := vendorWordsA ++ vendorWordsB

theorem test_encode_vendor_commands : ∀ p ∈ vendorWords, encode defaultCodes p.1 = some (.frame, [p.2, 0x00#8]) := by decide

theorem test_decode_vendor_commands :
    ∀ p ∈ vendorWords, decodedInstr (decode .frame [p.2, 0x00#8]) = some (.frameCommand p.2) := by decide

/-- The table words: a request of 8 bits, the 16-bit word of `Clear` with its stray field, a frame, a wire byte. -/
theorem test_decodeTableWord :
    decodeTableWord 8 0 = some .reset ∧ decodeTableWord 8 7 = some .reserved111 ∧
    decodeTableWord 16 0x402 = some .clear ∧ decodeTableWord 16 0x803 = some .display ∧
    decodeTableWord 16 0x133 = some (.frameData 0x33#8) ∧ decodeTableWord 16 0x12 = some (.frameCommand 0x12#8) ∧
    decodeTableWord 8 0x30 = some .wire30 ∧ decodeTableWord 8 0x33 = some .wire33 ∧ decodeTableWord 8 0x34 = none := by
  refine ⟨rfl, rfl, rfl, rfl, rfl, rfl, rfl, rfl, rfl⟩

/-! ### Reset and requests -/

/-- T43. -/
theorem test_reset_state : State.reset.lsOut = 0#2 ∧ State.reset.opStatus = 0#3 ∧ State.reset.opReady = true ∧
    State.reset.seq = .idle ∧ State.reset.tr = [] ∧ State.reset.lines = ⟨.undriven, .undriven, .undriven⟩ := by
  refine ⟨rfl, rfl, rfl, rfl, rfl, rfl⟩

/-- After block reset DPS waits (R262). -/
theorem test_step_waits : step State.reset = .next State.reset := rfl

/-- R262: block reset during an operation abandons it. -/
theorem test_block_reset_abandons :
    controlOf (step { running .clear .stream 5 (pairAt 1 1) (ready []) with port := ⟨false, true, 2#3, 0⟩ }) =
      some (.unpowered, .ok, false, .idle) := by decide

theorem test_requests_are_accepted :
    controlOf (step (State.reset.withFetchWord 8 0)) = some (.unpowered, .ok, true, .pos .reset .pulse 0) ∧
    controlOf (step (State.reset.withFetchWord 8 1)) = some (.unpowered, .ok, true, .pos .init .check 0) ∧
    controlOf (step (State.reset.withFetchWord 8 4)) = some (.unpowered, .ok, true, .pos .sleep .check 0) ∧
    controlOf (step (State.reset.withFetchWord 8 5)) = some (.unpowered, .ok, true, .pos .convert .pixel 0) := by
  decide

theorem test_clear_and_display_are_accepted :
    controlOf (step (State.reset.withFetchWord 16 2)) = some (.unpowered, .ok, true, .pos .clear .check 0) ∧
    controlOf (step (State.reset.withFetchWord 16 3)) = some (.unpowered, .ok, true, .pos .display .check 0) := by decide

/-- T25, the last row. -/
theorem test_reserved_codes :
    step (State.reset.withFetchWord 8 6) = .next (State.reset.withFetchWord 8 6) ∧
    step (State.reset.withFetchWord 8 7) = .next (State.reset.withFetchWord 8 7) := ⟨rfl, rfl⟩

/-- T44: a request offered during an operation stays at the port. -/
theorem test_request_is_held_off :
    (stateOf (step ((running .clear .refreshCmd 0 Datapath.empty (ready [])).offer 4#3 0))).map (·.port) =
      some ⟨true, true, 4#3, 0⟩ := by decide

/-- R130, R35: a `Sleep` offered with `buf_len` 0 while `Display` runs is not merged into it: the length checked is the one stated
with the `Display`. -/
theorem test_request_is_not_merged :
    let s := (stateOf (exec .display ((ready []).offer 3#3 30720))).map fun u => runs 2 (u.offer 4#3 0)
    (s.bind stateOf).map (fun t => (t.status, t.seq, t.operands.len, t.port)) =
      some (.ok, .pos .display .startCmd 0, 30720, ⟨true, true, 4#3, 0⟩) := by decide

/-- R130, R186: a width that the host changes while `Convert` runs is not that of the `Convert` in progress: pixel (8, 0) lies
outside, and is white, though the image there is now wider and black at it. -/
theorem test_convert_bounds_are_of_its_request :
    let s := running .convert .pixel 8 (pixelAt 8 0 0x00#8) { ready [] with img := plain 8 1 [] }
    ((HostAct.setImage (plain 9 1 [8])).apply s).convertBit 8 0 = true ∧
    ((HostAct.setImage (plain 9 1 [7])).apply s).convertBit 7 0 = false := by decide

/-- T25: the checks, at their positions. -/
theorem test_checks :
    controlAfter .init (running .init .check 0 Datapath.empty { ready [] with ls := .sleeping }) =
      some (.sleeping, .invalidState, false, .idle) ∧
    controlAfter .clear (running .clear .check 0 Datapath.empty State.reset) =
      some (.unpowered, .invalidState, false, .idle) ∧
    controlAfter .sleep (running .sleep .check 0 Datapath.empty (ready [])) =
      some (.ready, .ok, true, .pos .sleep .powerOffCmd 0) := by
  refine ⟨?_, ?_, ?_⟩ <;> decide

/-- T25, R222: the length check. -/
theorem test_length_check :
    controlAfter .display (running .display .check 1 Datapath.empty ((ready []).offer 3#3 30719)) =
      some (.ready, .invalidBufferSize, false, .idle) ∧
    controlAfter .display (running .display .check 1 Datapath.empty ((ready []).offer 3#3 30720)) =
      some (.ready, .ok, true, .pos .display .startCmd 0) := by refine ⟨?_, ?_⟩ <;> decide

/-- R139: where LS is written. -/
theorem test_lifecycle_writes :
    controlOf (step (running .reset .pulse 5 Datapath.empty (ready []))) =
      some (.unpowered, .ok, true, .pos .reset .done 0) ∧
    controlOf (step (running .init .initArg 0 { stepAt 10 with ai := some 0 } State.reset)) =
      some (.ready, .ok, true, .pos .init .done 0) ∧
    controlOf (step (running .sleep .deepSleepArg 0 Datapath.empty (ready []))) =
      some (.sleeping, .ok, true, .pos .sleep .done 0) := by decide

/-- R93 (b): the wait after the power-on command, step 3 of the default sequence, which has no argument. -/
theorem test_init_waits_after_power_on :
    controlOf (step (running .init .initCmd 3 (stepAt 3) State.reset)) =
      some (.unpowered, .ok, true, .pos .init .poll 0) ∧
    controlOf (step (running .init .initCmd 8 (stepAt 8) State.reset)) =
      some (.unpowered, .ok, true, .pos .init .initArg 0) := by decide

/-- The last pair of the last byte, and the pairs before. -/
theorem test_stream_positions :
    controlOf (step (running .clear .stream 122879 (pairAt 30719 3) (ready []))) =
      some (.ready, .ok, true, .pos .clear .refreshCmd 0) ∧
    controlOf (step (running .clear .stream 3 (pairAt 0 3) (ready []))) =
      some (.ready, .ok, true, .pos .clear .stream 4) := by decide

/-! ### Transport primitives: T20, T21, T22 -/

theorem test_setLine :
    traceAfter (.setLine .rst .high) { ready [] with lines := ⟨.undriven, .undriven, .driven .high⟩ } =
      some [.setLine .rst .high .ok] ∧
    linesAfter (.setLine .rst .low) (ready []) = some ⟨.undriven, .undriven, .driven .low⟩ := by decide

theorem test_readLine :
    traceAfter (.readLine .busy) (ready []) = some [.readBusy (.level .high)] ∧
    traceAfter (.readLine .busy) (ready [.low]) = some [.readBusy (.level .low)] := by decide

theorem test_transmitByte :
    traceAfter (.transmitByte .data 0x33#8) (ready []) = some [.tx .data 0x33#8 .ok] ∧
    linesAfter (.transmitByte .data 0x33#8) (ready []) = some ⟨.driven .high, .driven .high, .undriven⟩ := by decide

theorem test_frames :
    linesAfter (.frameCommand 0x12#8) (ready []) = some ⟨.driven .low, .driven .high, .undriven⟩ ∧
    (stateOf (exec (.frameCommand 0x12#8) (ready []))).map State.refinedTrace =
      some [.drive .dc .low .ok, .drive .cs .low .ok, .transfer 0x12#8 .ok, .drive .cs .high .ok] ∧
    (stateOf (exec (.frameData 0x33#8) (ready []))).map State.refinedTrace =
      some [.drive .dc .high .ok, .drive .cs .low .ok, .transfer 0x33#8 .ok, .drive .cs .high .ok] := by decide

theorem test_pulseReset :
    traceAfter (.pulseReset resetPattern) (ready []) =
      some [.setLine .rst .high .ok, .delay 200, .setLine .rst .low .ok, .delay 200, .setLine .rst .high .ok,
        .delay 200] ∧
    linesAfter (.pulseReset resetPattern) (ready []) = some ⟨.undriven, .undriven, .driven .high⟩ := by decide

theorem test_delay : traceAfter (.delay 100) (ready []) = some [.delay 100] := by decide

theorem test_serialBits : serialBits 0xA5#8 = [true, false, true, false, false, true, false, true] := by decide

theorem test_fault_in_a_frame :
    let s := running .clear .stream 0 (pairAt 0 0) (answered [.ok, .ok, .fault] (ready []))
    controlAfter (.frameData 0x33#8) s = some (.ready, .transportFault, false, .idle) ∧
    linesAfter (.frameData 0x33#8) s = some ⟨.driven .high, .driven .low, .undriven⟩ ∧
    (stateOf (exec (.frameData 0x33#8) s)).map State.refinedTrace =
      some [.drive .dc .high .ok, .drive .cs .low .ok, .transfer 0x33#8 .failed] := by decide

/-- Each vendor command sends its byte (R90). -/
theorem test_vendor_commands : ∀ p ∈ vendorWords, traceAfter p.1 State.reset = some [.tx .command p.2 .ok] := by decide

/-! ### Busy-wait: T23; TurnOnDisplay: R136 -/

theorem test_busyWait :
    traceAfter .busyWait (ready []) = some [.readBusy (.level .high)] ∧
    traceAfter .busyWait (ready [.low]) = some [.readBusy (.level .low), .delay 100] ∧
    traceAfter .busyWait { ready [.high] with dp := polled 2, tr := [.delay 7] } =
      some [.delay 7, .readBusy (.level .high)] := by decide

theorem test_busyWait_bound :
    controlAfter .busyWait { bounded (some 3) (ready [.low]) with dp := polled 2 } =
      some (.ready, .timeout, false, .idle) ∧
    traceAfter .busyWait { bounded (some 3) (ready [.low]) with dp := polled 2 } = some [.readBusy (.level .low)] ∧
    traceAfter .busyWait { bounded (some 3) (ready [.low]) with dp := polled 1 } =
      some [.readBusy (.level .low), .delay 100] ∧
    controlAfter .busyWait (bounded (some 1) (ready [.low])) = some (.ready, .timeout, false, .idle) := by decide

/-- T23, the last row: a failed read is no low sample. -/
theorem test_busyWait_fault :
    controlAfter .busyWait (bounded (some 1) (answered [.fault] (ready [.low]))) =
      some (.ready, .transportFault, false, .idle) ∧
    traceAfter .busyWait (answered [.fault] (ready [.low])) = some [.readBusy .failed] := by decide

theorem test_turnOnDisplay :
    traceAfter .turnOnDisplay (ready []) =
      some [.tx .command 0x12#8 .ok, .delay 100, .readBusy (.level .high)] ∧
    traceAfter .turnOnDisplay (ready [.low]) =
      some [.tx .command 0x12#8 .ok, .delay 100, .readBusy (.level .low), .delay 100] := by decide

/-! ### Wire Encoder: T39, T42 -/

theorem test_expandPairs :
    expandPairs 0x1B#8 = [0x00#8, 0x03#8, 0x30#8, 0x33#8] ∧ expandPairs 0x80#8 = [0x30#8, 0x00#8, 0x00#8, 0x00#8] ∧
    expandPairs 0xFF#8 = [0x33#8, 0x33#8, 0x33#8, 0x33#8] ∧ expandPairs 0xA5#8 = [0x30#8, 0x30#8, 0x03#8, 0x03#8] ∧
    expandPairs 0x7E#8 = [0x03#8, 0x33#8, 0x33#8, 0x30#8] ∧ packFromWire 0x30#8 0x33#8 0x33#8 0x33#8 = 0xBF#8 := by
  decide

theorem test_expandByteToNibblePairs :
    traceAfter (.expandByteToNibblePairs 0x1B#8) (ready []) =
      some [.tx .data 0x00#8 .ok, .tx .data 0x03#8 .ok, .tx .data 0x30#8 .ok, .tx .data 0x33#8 .ok] := by decide

/-- T42, on the first bytes of the stream. -/
theorem test_encode_begins :
    (sendBuffer 3 0 { ready [] with pbb := [(1, 0x00#8), (2, 0xA5#8)] }).st.tr =
      [0x33#8, 0x33#8, 0x33#8, 0x33#8, 0x00#8, 0x00#8, 0x00#8, 0x00#8, 0x30#8, 0x30#8, 0x03#8, 0x03#8].map
        (Event.tx .data · .ok) := by decide

theorem test_wire_bytes :
    traceAfter .wire00 (ready []) = some [.tx .data 0x00#8 .ok] ∧
    traceAfter .wire03 (ready []) = some [.tx .data 0x03#8 .ok] ∧
    traceAfter .wire30 (ready []) = some [.tx .data 0x30#8 .ok] ∧
    traceAfter .wire33 (ready []) = some [.tx .data 0x33#8 .ok] := by decide

/-- A step of `Display` at pair 1 of the byte 0x40 sends 0x00, at pair 0 it sends 0x03. -/
theorem test_display_stream :
    (stateOf (step (running .display .stream 0 (pairAt 0 0) { ready [] with pbb := [(0, 0x40#8)] }))).map (·.tr) =
      some [.tx .data 0x03#8 .ok] ∧
    (stateOf (step (running .display .stream 1 { pairAt 0 1 with inv := some 0xBF#8 }
      { ready [] with pbb := [(0, 0x40#8)] }))).map (·.tr) = some [.tx .data 0x00#8 .ok] := by decide

/-! ### Image Converter: T35, T36 -/

theorem test_quantize :
    let q := quantize defaultConfig
    q 0x000000#24 = false ∧ q 0xFFFFFF#24 = true ∧ q 0x7F7F7F#24 = false ∧ q 0x808080#24 = true ∧
    q 0x00FF00#24 = false ∧ q 0xFF8000#24 = true ∧ q 0xFF7F00#24 = false ∧ q 0x80807F#24 = true := by decide

/-- R183, U14: a quantiser that makes pure green white, and no list makes black white or white black. -/
theorem test_quantize_is_a_parameter :
    let c := { defaultConfig with quantizeFlips := [0x00FF00#24, 0x000000#24, 0xFFFFFF#24] }
    quantize c 0x00FF00#24 = true ∧ quantize c 0x000000#24 = false ∧ quantize c 0xFFFFFF#24 = true ∧
    quantize c 0x00FE00#24 = false ∧ packedByte c ⟨1, 1, [(0, 0x00FF00#24)]⟩ 0 0 = 0xFF#8 := by decide

/-- 1 by 1 black; 3 by 1; 9 by 1 black. -/
theorem test_packedByte :
    packedByte defaultConfig (plain 1 1 [0]) 0 0 = 0x7F#8 ∧
    packedByte defaultConfig ⟨3, 1, [(0, 0x7F7F7F#24), (1, 0x808080#24), (2, 0xFF0000#24)]⟩ 0 0 = 0x5F#8 ∧
    packedByte defaultConfig (plain 9 1 [0, 1, 2, 3, 4, 5, 6, 7, 8]) 0 0 = 0x00#8 ∧
    packedByte defaultConfig (plain 9 1 [0, 1, 2, 3, 4, 5, 6, 7, 8]) 1 0 = 0x7F#8 := by decide

/-- R185: the flush at column 7 of row 1 writes byte 80; the last pixel ends the loops. -/
theorem test_convert_pixel :
    (stateOf (exec .convert (running .convert .pixel 647 (pixelAt 7 1 0x2A#8) { ready [] with img := plain 9 2 [] }))).map
      (fun s => (s.pbb, s.dp.acc)) = some ([(80, 0x55#8)], some 0x00#8) ∧
    controlAfter .convert (running .convert .pixel 245759 (pixelAt 639 383 0x7F#8) (ready [])) =
      some (.ready, .ok, true, .pos .convert .done 0) := by decide

/-- R44: the ports that show the flush of that pixel. -/
theorem test_convert_ports :
    let s := running .convert .pixel 647 (pixelAt 7 1 0x2A#8) { ready [] with img := plain 9 2 [] }
    s.cvWrite = some (80, 0x55#8) ∧ s.pxX = some 7 ∧ s.pxY = some 1 ∧ s.bufAddr = none := by decide

/-- R44, R61: outside the image no pixel is read, and after the last pixel nothing is written. -/
theorem test_convert_ports_are_quiet :
    let s := running .convert .pixel 650 (pixelAt 10 1 0x2A#8) { ready [] with img := plain 9 2 [] }
    let e := running .convert .done 0 (pixelAt 639 383 0x00#8) { ready [] with img := plain 640 384 [] }
    s.cvWrite = none ∧ s.pxX = none ∧ s.pxY = none ∧ e.cvWrite = none ∧ e.pxX = none ∧ e.pxY = none := by decide

/-- While `rst_n` is low the next step is block reset, which reads and writes neither memory. -/
theorem test_ports_are_quiet_in_block_reset :
    let low : Port := ⟨false, false, 0#3, 0⟩
    let s := running .convert .pixel 7 (pixelAt 7 0 0x00#8) { ready [] with img := plain 9 2 [], port := low }
    s.cvWrite = none ∧ s.pxX = none ∧ s.pxY = none ∧
    (running .display .stream 20 (pairAt 5 0) { ready [] with port := low }).bufAddr = none ∧
    (stateOf (step s)).map (·.pbb) = some [] := by decide

/-- R60: a byte of `PBB` is read at pair 0 of `Display`, and at no other pair and in no other operation. -/
theorem test_buffer_port :
    (running .display .stream 20 (pairAt 5 0) (ready [])).bufAddr = some 5 ∧
    (running .display .stream 21 (pairAt 5 1) (ready [])).bufAddr = none ∧
    (running .display .refreshCmd 0 (pairAt 30719 3) (ready [])).bufAddr = none ∧
    (running .clear .stream 20 (pairAt 5 0) (ready [])).bufAddr = none := by decide

/-- Completion writes OK over an earlier status. -/
theorem test_completion :
    controlAfter .reset (running .reset .done 0 Datapath.empty { State.reset with status := .timeout }) =
      some (.unpowered, .ok, false, .idle) := by decide

/-! ### Witnesses: states and operands that meet the hypotheses of the obligation each is named after -/

theorem nextOk_nil (n : Nat) {s : State} (h : s.faults = []) : NextOk n s := by simp [NextOk, h]
theorem noFault_nil {s : State} (h : s.faults = []) : NoTransportFault s := by simp [NoTransportFault, h]

/-- A panel that answers `n` times low and then high. -/
theorem lowsThenHigh_script (n : Nat) : LowsThenHigh n ⟨List.replicate n .low, some .high, 0⟩ := by
  suffices ∀ n c, LowsThenHigh n ⟨List.replicate n .low, some .high, c⟩ from this n 0
  intro n
  induction n with
  | zero => exact fun c => ⟨fun m hm => absurd hm (Nat.not_lt_zero m), rfl⟩
  | succ n ih =>
    intro c
    refine ⟨fun m hm => ?_, (ih (c + 1)).2⟩
    cases m with
    | zero => rfl
    | succ m => exact (ih (c + 1)).1 m (Nat.lt_of_succ_lt_succ hm)

/-- A panel that answers low for ever. -/
def stuck (s : State) : State := { s with busy := ⟨[], some .low, 0⟩ }

theorem busyLow_stuck (s : State) : BusyLowForever (stuck s) := by
  suffices ∀ n c, (busyAfter n ⟨[], some .low, c⟩).level = .low from fun n => this n 0
  intro n
  induction n with
  | zero => exact fun c => rfl
  | succ n ih => exact fun c => ih (c + 1)

/-- A host that does nothing keeps the buffer stable. -/
theorem bufferStable_none (k : Nat) : ∀ s, BufferStable (List.replicate k .none) s := by
  induction k with
  | zero => exact fun _ => trivial
  | succ k ih =>
    intro s
    refine ⟨fun _ => rfl, ?_⟩
    split
    · exact ih _
    · trivial
    · trivial

/-- A panel that answers high for ever: every wait ends at its first sample. -/
theorem busyEventuallyHigh_ready {s : State} (h : s.busy = ⟨[], some .high, 0⟩) : BusyEventuallyHigh s := by
  have ready : ∀ m c, (busyAfter m ⟨[], some .high, c⟩).level = .high := by
    intro m
    induction m with
    | zero => exact fun _ => rfl
    | succ m ih => exact fun c => ih (c + 1)
  refine fun m => .inl ⟨0, fun k hk => absurd hk (Nat.not_lt_zero k), ?_⟩
  rw [h]
  exact ready m 0

/-- A panel that answers low for ever, with a bound: every wait ends at the bound. -/
theorem busyEventuallyHigh_bounded (limit : Nat) (s : State) : BusyEventuallyHigh (stuck (bounded (some limit) s)) :=
  fun m => .inr ⟨limit, rfl, fun k _ => busyLow_stuck (bounded (some limit) s) (m + k)⟩

theorem within_none (n : Nat) {s : State} (h : s.cfg.busyTimeoutPolls = none) : WithinPolls n s.cfg := by
  intro limit hl
  rw [h] at hl
  exact absurd hl (by simp)

theorem inv_running_pixel : Inv (running .convert .pixel 245759 (pixelAt 639 383 0x00#8) (ready [])) :=
  ⟨⟨rfl, rfl, trivial, 639, 383, 0x00#8, rfl, rfl, rfl, by decide, by decide, rfl⟩, rfl, rfl⟩

theorem inv_running_poll : Inv (running .sleep .poll 3 (polled 3) (ready [])) :=
  ⟨⟨rfl, rfl, rfl, rfl, fun h => by simp at h⟩, rfl, rfl⟩

theorem inv_running_stream : Inv (running .clear .stream 122879 (pairAt 30719 3) (ready [])) :=
  ⟨⟨rfl, rfl, rfl, 30719, 3, rfl, rfl, by decide, by decide, rfl, fun h => by simp at h⟩, rfl, rfl⟩

theorem inv_running_init : Inv (running .init .initCmd 10 (stepAt 10) State.reset) :=
  ⟨⟨rfl, rfl, rfl, rfl, by decide⟩, rfl, rfl⟩

theorem witness_DecodeOfEncodeIsTheInstruction :
    WellFormed (.cmdLut 9) = true ∧ encode defaultCodes (.cmdLut 9) = some (.frame, [0x29#8, 0x00#8]) ∧
    WellFormed (.frameData 0x80#8) = true ∧ encode defaultCodes (.frameData 0x80#8) = some (.frame, [0x80#8, 0x01#8]) := by
  decide

theorem witness_EncodeOfDecodeIsTheBytes : decode .frame [0x80#8, 0x01#8, 0xAA#8] = .ok (.frameData 0x80#8, [0xAA#8]) := rfl

theorem witness_StepRunsTheRequestAtThePort :
    (Waiting State.reset ∧ State.reset.port.opValid = false) ∧
    (Waiting (State.reset.offer 7#3 0) ∧ (State.reset.offer 7#3 0).port.opValid = true) := ⟨⟨⟨rfl, rfl⟩, rfl⟩, ⟨rfl, rfl⟩, rfl⟩

theorem witness_StepRunsTheInstructionAtSeq :
    (∃ s0 t, (running .reset .pulse 0 Datapath.empty State.reset).port.rstN = true ∧
      fetch { running .reset .pulse 0 Datapath.empty State.reset with opDone := false } = .ok (.setLine .rst .high, s0) ∧
      exec (.setLine .rst .high) s0 = .next t) ∧
    (∃ s0, fetch { running .convert .pixel 0 Datapath.empty State.reset with opDone := false } = .ok (.convert, s0) ∧
      exec .convert s0 = .fault (.undefinedRegister .ci)) := ⟨⟨_, _, rfl, rfl, rfl⟩, _, rfl, rfl⟩

theorem witness_PlacedWordIsRunNext : decodeTableWord 8 5 = some .convert ∧ decodeTableWord 16 0x1FF = some (.frameData 0xFF#8) ∧
    decodeTableWord 8 0x33 = some .wire33 := ⟨rfl, rfl, rfl⟩

theorem witness_BlockResetLeavesTheStatedValues :
    ({ ready [] with port := ⟨false, true, 2#3, 0⟩ } : State).port.rstN = false := rfl

theorem witness_RequestIsAcceptedWhileIdle : State.reset.run = false := rfl

theorem witness_ReservedCodeChangesNothing :
    (Waiting (State.reset.offer 6#3 0) ∧ (State.reset.offer 6#3 0).port.opValid = true ∧
      (State.reset.offer 6#3 0).port.opCode = 6#3) ∧
    (Waiting (State.reset.offer 7#3 0) ∧ (State.reset.offer 7#3 0).port.opValid = true ∧
      (State.reset.offer 7#3 0).port.opCode = 7#3) := ⟨⟨⟨rfl, rfl⟩, rfl, rfl⟩, ⟨rfl, rfl⟩, rfl, rfl⟩

/-- An operation whose request has a 1 by 1 image, and a `Convert` of a wider image held off, which is black at the pixel that the
other one has not. -/
theorem witness_RequestIsHeldOffWhileRunning :
    let s := running .convert .pixel 0 (pixelAt 0 0 0x00#8) { ready [] with img := plain 1 1 [] }
    State.run s = true ∧ (∃ t, s.run = true ∧ step s = .next t ∧ s.port.rstN = true) ∧ (plain 2 1 [1]).pixel 1 0 = 0x000000#24 ∧
    ∀ x y, x < s.operands.w → y < s.operands.h → (plain 2 1 [1]).pixel x y = s.img.pixel x y := by
  refine ⟨rfl, ⟨_, rfl, rfl, rfl⟩, by decide, fun x y hx hy => ?_⟩
  have hx : x < 1 := hx
  have hy : y < 1 := hy
  interval_cases x
  interval_cases y
  decide

/-- Each operation, valid and (for those that have such a state) not. -/
theorem witness_StateCheckFollowsTheTable :
    let s (op : Op) (ls : Lifecycle) : State := running op .check 0 Datapath.empty { State.reset with ls := ls }
    (∀ op ls, (s op ls).run = true ∧ (s op ls).seq = .pos op .check 0) ∧
    (decide ((s .init .ready).ls ≠ .sleeping) = true ∧ decide ((s .init .sleeping).ls ≠ .sleeping) = false) ∧
    (decide ((s .clear .ready).ls = .ready) = true ∧ decide ((s .clear .unpowered).ls = .ready) = false) ∧
    (decide ((s .display .ready).ls = .ready) = true ∧ decide ((s .display .sleeping).ls = .ready) = false) ∧
    (decide ((s .sleep .ready).ls = .ready) = true ∧ decide ((s .sleep .sleeping).ls = .ready) = false) := by
  refine ⟨fun op ls => ⟨rfl, rfl⟩, ?_⟩
  decide

theorem witness_InvalidStateDrivesNothing :
    Waiting State.reset ∧ Op.validIn .clear State.reset.ls = false ∧ Op.validIn .display State.reset.ls = false ∧
    Op.validIn .sleep State.reset.ls = false ∧ Waiting { State.reset with ls := .sleeping } ∧
    Op.validIn .init .sleeping = false := ⟨⟨rfl, rfl⟩, rfl, rfl, rfl, ⟨rfl, rfl⟩, rfl⟩

theorem witness_WrongBufferLengthDrivesNothing : ∀ len ∈ [0, 30719, 30721, 122880],
    Waiting ((ready []).offer 3#3 len) ∧ ((ready []).offer 3#3 len).ls = .ready ∧
      ((ready []).offer 3#3 len).port.bufLen ≠ 30720 := by
  intro len h
  refine ⟨⟨rfl, rfl⟩, rfl, ?_⟩
  rintro rfl
  simp at h

theorem witness_SetLineDrivesItsLatch : NextOk 1 (answered [.ok, .fault] (ready [])) := by
  intro a ha
  simpa [answered, ready] using ha

theorem witness_FailedSetLineRaisesTransportFault :
    Line.isOutput .rst = true ∧ (answered [.fault] (ready [])).faults.head? = some .fault := ⟨rfl, rfl⟩

theorem witness_IllFormedTermsStop : 10 ≤ 10 := Nat.le_refl 10

theorem witness_ReadLineRecordsTheSample :
    NextOk 1 (ready [.low]) ∧ (answered [.fault] (ready [])).faults.head? = some .fault := ⟨nextOk_nil 1 rfl, rfl⟩

theorem witness_TransmitByteIsFourEffects : NextOk 4 (answered [.ok, .ok, .ok, .ok, .fault] (ready [])) := by
  intro a ha
  simpa [answered, ready] using ha

theorem witness_FramesAreTransmittedBytes : NextOk 4 State.reset := nextOk_nil 4 rfl

/-- Each of the four effects. -/
theorem witness_FailedFrameStopsAtItsEffect : ∀ n, n < 4 →
    NextOk n (answered (List.replicate n .ok ++ [.fault]) (ready [])) ∧
    (answered (List.replicate n .ok ++ [.fault]) (ready [])).faults[n]? = some .fault := by
  intro n hn
  constructor
  · intro a ha
    have ht : (List.replicate n FaultAnswer.ok ++ [FaultAnswer.fault]).take n = List.replicate n .ok := by simp
    rw [show (answered (List.replicate n .ok ++ [.fault]) (ready [])).faults =
      List.replicate n FaultAnswer.ok ++ [.fault] from rfl, ht] at ha
    exact List.eq_of_mem_replicate ha
  · simp [answered]

theorem witness_PulseResetDrivesItsPattern :
    NextOk resetPattern.length (answered [.ok, .ok, .ok, .fault] State.reset) ∧
    NextOk ([] : List PulseEntry).length (answered [.fault] State.reset) := by
  constructor
  · intro a ha
    simpa [answered, State.reset, resetPattern] using ha
  · intro a ha
    simp at ha

theorem witness_VendorCommandIsOneCommandFrame : NextOk 4 State.reset ∧ 0 < 10 ∧ 9 < 10 :=
  ⟨nextOk_nil 4 rfl, by decide, by decide⟩

theorem witness_WireByteIsOneDataFrame : NextOk 4 (ready []) := nextOk_nil 4 rfl

theorem witness_ExpansionInTermsOfTheByte : expandPairs 0xBF#8 = [0x30#8, 0x33#8, 0x33#8, 0x33#8] := by decide

theorem witness_ExpandEmitsItsFourBytes : NextOk 16 (ready []) := nextOk_nil 16 rfl

theorem witness_EncodeSendsTheBuffer : NoTransportFault { ready [] with pbb := [(30719, 0x01#8)] } := noFault_nil rfl

theorem witness_WireFrameIsInRasterOrder : (0 < 640 ∧ 0 < 384) ∧ (639 < 640 ∧ 383 < 384) := by decide

/-- A memory that lists `v` at every key from `lo` on, `n` of them. -/
def filled {α : Type} (v : α) (lo n : Nat) : List (Nat × α) := (List.range' lo n).map fun k => (k, v)

theorem memRead_filled {α : Type} (d v : α) (n : Nat) : ∀ lo a, lo ≤ a → a < lo + n → memRead d (filled v lo n) a = v := by
  induction n with
  | zero => intro lo a h1 h2; omega
  | succ n ih =>
    intro lo a h1 h2
    by_cases h : lo = a
    · simp [filled, memRead, List.range'_succ, h]
    · have := ih (lo + 1) a (by omega) (by omega)
      simpa [filled, memRead, List.range'_succ, h] using this

/-- The white buffer is the one with nothing listed; the black one lists every byte. -/
theorem witness_UniformBuffersGiveUniformFrames :
    (∀ a, a < 30720 → pbbByte [] a = 0xFF#8) ∧ (∀ a, a < 30720 → pbbByte (filled 0x00#8 0 30720) a = 0x00#8) :=
  ⟨fun _ _ => rfl, fun a ha => memRead_filled pbbDefault 0x00#8 30720 0 a (Nat.zero_le a) (by omega)⟩

/-- A white image lists nothing; a black one lists every pixel. -/
theorem witness_ConvertOfPureImages :
    (∀ px, let s := { ready [] with img := ⟨640, 384, px⟩ }
      Waiting s ∧ memWf pbbDefault bufSz s.pbb = true ∧ s.img.w = 640 ∧ s.img.h = 384) ∧
    (∀ x y, x < 640 → y < 384 → Image.pixel ⟨640, 384, filled 0x000000#24 0 245760⟩ x y = 0x000000#24) ∧
    (∀ x y, x < 640 → y < 384 → Image.pixel ⟨640, 384, []⟩ x y = 0xFFFFFF#24) :=
  ⟨fun _ => ⟨⟨rfl, rfl⟩, rfl, rfl, rfl⟩,
    fun x y hx hy => (Image.pixel_of_contains (by simp [Image.contains, inBounds, hx, hy])).trans
      (memRead_filled imgDefault 0x000000#24 245760 0 (x + y * 640) (Nat.zero_le _) (by omega)),
    fun x y _ _ => Image.pixel_of_empty rfl x y⟩

/-- The three clauses, the last two at their common border `limit = n + 1` and `n + 2`. -/
theorem witness_BusyWaitRound :
    (NextOk 1 (ready []) ∧ (ready []).dp.pc = none ∧ (ready []).busy.level = .high) ∧
    (NextOk 1 (bounded (some 3) (ready [.low])) ∧ (ready [.low]).busy.level = .low ∧
      WithinPolls 2 (bounded (some 3) (ready [.low])).cfg) ∧
    (({ bounded (some 3) (ready [.low]) with dp := polled 2 } : State).dp.pc = some 2 ∧
      (bounded (some 3) (ready [.low])).cfg.busyTimeoutPolls = some 3 ∧ 3 ≤ 2 + 1) := by
  refine ⟨⟨nextOk_nil 1 rfl, rfl, rfl⟩, ⟨nextOk_nil 1 rfl, rfl, ?_⟩, rfl, rfl, by decide⟩
  intro limit h
  have : (3 : Nat) = limit := by simpa [bounded] using h
  omega

theorem witness_TurnOnDisplayRefreshesThenWaits :
    (NextOk 5 (ready []) ∧ (ready []).busy.level = .high) ∧
    (NextOk 5 (ready [.low]) ∧ (ready [.low]).busy.level = .low ∧ WithinPolls 1 (ready [.low]).cfg) ∧
    (NextOk 5 (bounded (some 1) (ready [.low])) ∧ (bounded (some 1) (ready [.low])).busy.level = .low ∧
      (bounded (some 1) (ready [.low])).cfg.busyTimeoutPolls = some 1) :=
  ⟨⟨nextOk_nil 5 rfl, rfl⟩, ⟨nextOk_nil 5 rfl, rfl, within_none 1 rfl⟩, nextOk_nil 5 rfl, rfl, rfl⟩

/-- Each of the four operations; one low sample before the high one; in `Init`, after a step that is not the last and after
the last, the 11th. -/
theorem witness_WaitEndsAtTheFirstHighSample : ∀ op, op ∈ [.init, .clear, .display, .sleep] → ∀ si ∈ [3, 9, 10],
    let s := running op .poll 0 { polled 0 with si := some si } (ready [.low])
    s.port.rstN = true ∧ s.run = true ∧ s.seq = .pos op .poll 0 ∧ op.hasPhase .poll = true ∧ s.dp.si = some si ∧
      s.dp.pc = some 0 ∧ NoTransportFault s ∧ LowsThenHigh 1 s.busy ∧ WithinPolls 1 s.cfg ∧ s.cfg.initSeq.length = 11 := by
  intro op hop si _
  refine ⟨rfl, rfl, rfl, ?_, rfl, rfl, noFault_nil rfl, lowsThenHigh_script 1, within_none 1 rfl, rfl⟩
  revert op
  decide

theorem witness_LowLineHangsForever :
    let s := running .clear .poll 7 (polled 7) (stuck (ready []))
    s.port.rstN = true ∧ s.run = true ∧ s.seq = .pos .clear .poll 7 ∧ Op.hasPhase .clear .poll = true ∧
      s.dp.pc = some 7 ∧ NoTransportFault s ∧ BusyLowForever s ∧ s.cfg.busyTimeoutPolls = none :=
  ⟨rfl, rfl, rfl, rfl, rfl, noFault_nil rfl, busyLow_stuck (ready []), rfl⟩

/-- Bounds of one and of two low samples. -/
theorem witness_TimeoutAfterTheBound : ∀ limit, 0 < limit →
    let s := running .sleep .poll 0 (polled 0) (stuck (bounded (some limit) (ready [])))
    s.port.rstN = true ∧ s.run = true ∧ s.seq = .pos .sleep .poll 0 ∧ Op.hasPhase .sleep .poll = true ∧
      s.dp.pc = some 0 ∧ NoTransportFault s ∧ s.cfg.busyTimeoutPolls = some limit ∧
      (∀ m, m < limit → (busyAfter m s.busy).level = .low) :=
  fun limit _ => ⟨rfl, rfl, rfl, rfl, rfl, noFault_nil rfl, rfl, fun m _ => busyLow_stuck (bounded (some limit) (ready [])) m⟩

theorem witness_ResetPulsesTheLine : Waiting State.reset ∧ NextOk 3 State.reset := ⟨⟨rfl, rfl⟩, nextOk_nil 3 rfl⟩

theorem witness_configWf : configWf defaultConfig = true := by decide

/-- The minimal sequence of T28 is one the spec allows. -/
theorem witness_configWf_minimal : configWf { defaultConfig with initSeq :=
    [⟨0x01#8, [], false⟩, ⟨0x00#8, [], false⟩, ⟨0x06#8, [], false⟩,
      ⟨0x61#8, [0x02#8, 0x80#8, 0x01#8, 0x80#8], false⟩, ⟨0x82#8, [], false⟩, ⟨0x04#8, [], true⟩] } = true := by decide

/-- A sequence whose waits are not those of R93 (b) is not one. -/
theorem witness_configWf_rejects_another_wait : configWf { defaultConfig with initSeq :=
    [⟨0x01#8, [], true⟩, ⟨0x00#8, [], false⟩, ⟨0x06#8, [], false⟩,
      ⟨0x61#8, [0x02#8, 0x80#8, 0x01#8, 0x80#8], false⟩, ⟨0x82#8, [], false⟩, ⟨0x04#8, [], true⟩] } = false := by decide

/-- Nor one whose resolution step waits, be its byte the power-on byte too (R93 (c)). -/
theorem test_configWf_rejects_a_waiting_resolution :
    configWf { defaultConfig with
      codes := { defaultCodes with tconResolution := 0x04#8 }
      initSeq := [⟨0x01#8, [], false⟩, ⟨0x00#8, [], false⟩, ⟨0x06#8, [], false⟩, ⟨0x04#8, resolutionArgs, true⟩,
        ⟨0x82#8, [], false⟩] } = false := by decide

/-- Nor one that sends power-on an argument (R97). -/
theorem test_configWf_rejects_a_power_on_argument :
    configWf { defaultConfig with initSeq :=
      [⟨0x01#8, [], false⟩, ⟨0x00#8, [], false⟩, ⟨0x06#8, [], false⟩,
        ⟨0x61#8, [0x02#8, 0x80#8, 0x01#8, 0x80#8], false⟩, ⟨0x82#8, [], false⟩, ⟨0x04#8, [0x00#8], true⟩] } = false := by
  decide

/-- Nor one that sends a command that is never sent (R91): data stop, a LUT command, a read. -/
theorem test_configWf_rejects_never_sent_commands : ∀ cmd ∈ [0x11#8, 0x20#8, 0x29#8, 0x65#8, 0x70#8, 0x71#8, 0x80#8, 0x81#8],
    configWf { defaultConfig with initSeq := defaultInitSeq ++ [⟨cmd, [], false⟩] } = false := by decide

/-- Nor one in which `Init` sends power-off, refresh, data start or deep sleep, with an argument or without (R90, R97); while a
further step of a command of `Init` is allowed (R93). -/
theorem test_configWf_of_further_steps :
    (∀ cmd ∈ [0x02#8, 0x12#8, 0x10#8, 0x07#8], ∀ args ∈ [[], [0x55#8]],
      configWf { defaultConfig with initSeq := defaultInitSeq ++ [⟨cmd, args, false⟩] } = false) ∧
    configWf { defaultConfig with initSeq := defaultInitSeq ++ [⟨0x30#8, [0x3A#8], false⟩] } = true := by decide

theorem witness_InitSendsTheInitSequence :
    let s := { ready [.low] with ls := .unpowered }
    Waiting s ∧ s.ls ≠ .sleeping ∧ NoTransportFault s ∧ configWf s.cfg = true ∧ LowsThenHigh 1 s.busy ∧
      WithinPolls 1 s.cfg :=
  ⟨⟨rfl, rfl⟩, by decide, noFault_nil rfl, witness_configWf, lowsThenHigh_script 1, within_none 1 rfl⟩

theorem witness_ClearSendsTheWhiteFrame :
    Waiting (ready [.low, .low]) ∧ (ready [.low, .low]).ls = .ready ∧ NoTransportFault (ready [.low, .low]) ∧
      LowsThenHigh 2 (ready [.low, .low]).busy ∧ WithinPolls 2 (ready [.low, .low]).cfg :=
  ⟨⟨rfl, rfl⟩, rfl, noFault_nil rfl, lowsThenHigh_script 2, within_none 2 rfl⟩

/-- The premises of the run; host acts that keep the buffer stable, among them a write of the byte that is there, a request
offered meanwhile and another image; and one that does not. -/
theorem witness_DisplaySendsTheBuffer :
    let s := { (ready []).offer 3#3 30720 with pbb := [(0, 0x1B#8)] }
    (Waiting s ∧ s.ls = .ready ∧ s.port.bufLen = 30720 ∧ NoTransportFault s ∧ LowsThenHigh 0 s.busy ∧
      WithinPolls 0 s.cfg) ∧
    (∀ k, BufferStable (List.replicate k .none) (accept .display s)) ∧
    BufferStable [.writeBuffer 0 0x1B#8, .none] (accept .display s) ∧
    BufferStable [.offer 4#3 0, .setImage (plain 9 2 [])] (accept .display s) ∧
    ¬ BufferStable [.writeBuffer 0 0x1C#8] (accept .display s) := by
  refine ⟨⟨⟨rfl, rfl⟩, rfl, rfl, noFault_nil rfl, lowsThenHigh_script 0, within_none 0 rfl⟩, fun k => ?_, ?_, ?_, ?_⟩
  · exact bufferStable_none k _
  · exact ⟨fun _ => rfl, fun _ => rfl, trivial⟩
  · exact ⟨fun _ => rfl, fun _ => rfl, trivial⟩
  · rintro ⟨h, _⟩
    exact absurd (h rfl) (by decide)

theorem witness_ClearIsDisplayOfTheWhiteBuffer :
    let s := (ready []).offer 3#3 30720
    Waiting s ∧ s.ls = .ready ∧ s.port.bufLen = 30720 ∧ (∀ a, a < 30720 → pbbByte s.pbb a = 0xFF#8) ∧
      NoTransportFault s ∧ LowsThenHigh 0 s.busy ∧ WithinPolls 0 s.cfg :=
  ⟨⟨rfl, rfl⟩, rfl, rfl, fun _ _ => rfl, noFault_nil rfl, lowsThenHigh_script 0, within_none 0 rfl⟩

theorem witness_SleepPowersOffThenSleeps :
    Waiting (ready [.low]) ∧ (ready [.low]).ls = .ready ∧ NoTransportFault (ready [.low]) ∧
      LowsThenHigh 1 (ready [.low]).busy ∧ WithinPolls 1 (ready [.low]).cfg :=
  ⟨⟨rfl, rfl⟩, rfl, noFault_nil rfl, lowsThenHigh_script 1, within_none 1 rfl⟩

theorem witness_ConvertPacksTheImage :
    let s := { State.reset with ls := .sleeping, img := plain 10 2 [0, 19], pbb := [(30719, 0x01#8)] }
    Waiting s ∧ memWf pbbDefault bufSz s.pbb = true := ⟨⟨rfl, rfl⟩, by decide⟩

/-- One request: a wait that ends at a high answer, and one that ends at its bound. A list of them: a fresh block with a panel
that is ready, and with one that never is and a bound. -/
theorem witness_EveryOperationCompletesAsTheTableSays :
    (Waiting (ready [.low]) ∧ NoTransportFault (ready [.low]) ∧ WaitEndsFrom 0 (ready [.low]) ∧
      configWf (ready [.low]).cfg = true) ∧
    (WaitEndsFrom 0 (stuck (bounded (some 2) (ready []))) ∧ configWf (bounded (some 2) (ready [])).cfg = true) ∧
    (let s := { State.reset with busy := ⟨[], some .high, 0⟩ }
     FreshBlock s ∧ NoTransportFault s ∧ BusyEventuallyHigh s ∧ configWf s.cfg = true ∧ s.cfg.busyTimeoutPolls = none) ∧
    (let s := stuck (bounded (some 2) State.reset)
     FreshBlock s ∧ NoTransportFault s ∧ BusyEventuallyHigh s ∧ configWf s.cfg = true) :=
  ⟨⟨⟨rfl, rfl⟩, noFault_nil rfl, .inl ⟨1, lowsThenHigh_script 1⟩, witness_configWf⟩,
    ⟨busyEventuallyHigh_bounded 2 (ready []) 0, by decide⟩,
    ⟨⟨rfl, rfl⟩, noFault_nil rfl, busyEventuallyHigh_ready rfl, witness_configWf, rfl⟩,
    ⟨rfl, rfl⟩, noFault_nil rfl, busyEventuallyHigh_bounded 2 State.reset, by decide⟩

/-- T25 and R138: the source's session, from Unpowered: Init, Convert, Display, Sleep, and Display again. -/
theorem test_tableRun :
    tableRun .unpowered [⟨.init, 0, none, none⟩, ⟨.convert, 0, none, none⟩, ⟨.display, 30720, none, none⟩,
      ⟨.sleep, 0, none, none⟩, ⟨.display, 30720, none, none⟩] =
    (.sleeping, [.ok, .ok, .ok, .ok, .invalidState]) := by decide

/-- The empty list; a quantiser by luminance-like green alone, which keeps black and white. -/
theorem witness_QuantizeIsTheSumRule :
    let byGreen : Rgb → Bool := fun p => decide (128 ≤ green p)
    defaultConfig.quantizeFlips = [] ∧ byGreen 0x000000#24 = false ∧ byGreen 0xFFFFFF#24 = true := by decide

theorem witness_PackedByteIsTheAccumulator : 0 < 8 ∧ 7 < 8 := by decide

/-- A byte outside a small image and one across its border; an empty image; a byte within a black one; a white one; two
images that differ beyond the panel only. -/
theorem witness_PackedByteOfSpecialImages :
    ((plain 9 1 []).w ≤ 8 * 1 + 1 ∧ (plain 9 1 []).h ≤ 1) ∧ (plain 0 5 []).w = 0 ∧
    (8 * 0 + 8 ≤ 8 ∧ ∀ x y, x < 8 → y < 1 → (plain 8 1 [0, 1, 2, 3, 4, 5, 6, 7]).pixel x y = 0x000000#24) ∧
    (∀ x y, x < 9 → y < 2 → (plain 9 2 []).pixel x y = 0xFFFFFF#24) ∧
    (∀ x y, x < 640 → y < 384 → (plain 641 385 [640]).contains x y = (plain 641 385 []).contains x y ∧
      ((plain 641 385 []).contains x y = true → (plain 641 385 [640]).pixel x y = (plain 641 385 []).pixel x y)) := by
  refine ⟨by decide, rfl, ⟨by decide, fun x y hx hy => ?_⟩, fun x y _ _ => Image.pixel_of_empty rfl x y,
    fun x y hx hy => ⟨rfl, fun hc => ?_⟩⟩
  · interval_cases x <;> interval_cases y <;> rfl
  have : ¬ 640 = x + y * 641 := by
    rcases Nat.eq_zero_or_pos y with rfl | h
    · omega
    · have := Nat.mul_le_mul_right 641 h
      omega
  rw [Image.pixel_of_contains hc, Image.pixel_of_contains (img := plain 641 385 [640]) hc]
  simp [plain, memRead, this]

theorem witness_BufferMemoryIsCanonical :
    memWf pbbDefault bufSz ({ ready [] with pbb := [(3, 0x00#8)] } : State).pbb = true ∧ 30719 < bufSz ∧
    (memWf pbbDefault bufSz [(3, 0x00#8)] = true ∧ ∀ a, pbbByte [(3, 0x00#8)] a = pbbByte [(3, 0x00#8)] a) := by
  refine ⟨by decide, by decide, by decide, fun _ => rfl⟩

theorem witness_StepKeepsTheInvariant :
    Inv (running .sleep .poll 3 (polled 3) (ready [])) ∧
    Inv (running .clear .stream 122879 (pairAt 30719 3) (ready [])) ∧
    Inv (running .convert .pixel 245759 (pixelAt 639 383 0x00#8) (ready [])) ∧
    Inv (running .init .initCmd 10 (stepAt 10) State.reset) :=
  ⟨inv_running_poll, inv_running_stream, inv_running_pixel, inv_running_init⟩

/-- For the rules over every step: a step that sends a frame, one that samples, one that does neither. -/
theorem witness_TraceOnlyGrows :
    (∃ t, (running .sleep .powerOffCmd 0 Datapath.empty (ready [])).port.rstN = true ∧
      step (running .sleep .powerOffCmd 0 Datapath.empty (ready [])) = .next t) ∧
    (∃ t, step (running .sleep .poll 3 (polled 3) (ready [])) = .next t) ∧ ∃ t, step State.reset = .next t :=
  ⟨⟨_, rfl, rfl⟩, ⟨_, rfl⟩, _, rfl⟩

theorem witness_IdleBlockDrivesNothing : Waiting (State.reset.offer 1#3 0) ∧ ∃ t, step (State.reset.offer 1#3 0) = .next t :=
  ⟨⟨rfl, rfl⟩, _, rfl⟩

theorem witness_LifecycleIsWrittenOnlyWhereStated :
    ∃ t, (running .reset .pulse 5 Datapath.empty (ready [])).port.rstN = true ∧
      step (running .reset .pulse 5 Datapath.empty (ready [])) = .next t := ⟨_, rfl, rfl⟩

/-- In the pulse of a `Reset` from Sleeping, and waiting in Sleeping. -/
theorem witness_OnlyResetLeavesSleeping :
    (∃ t, Inv (running .reset .pulse 5 Datapath.empty { State.reset with ls := .sleeping }) ∧
      step (running .reset .pulse 5 Datapath.empty { State.reset with ls := .sleeping }) = .next t) ∧
    (∃ t, Inv { State.reset with ls := .sleeping } ∧ step { State.reset with ls := .sleeping } = .next t) :=
  ⟨⟨_, ⟨⟨rfl, rfl, trivial, (by decide : 5 < 6)⟩, rfl, rfl⟩, rfl⟩, _, ⟨⟨rfl, rfl⟩, rfl, rfl⟩, rfl⟩

theorem witness_StatusIsWrittenOnlyAtCompletion :
    ∃ t, step (running .clear .check 0 Datapath.empty State.reset) = .next t ∧ t.status ≠ State.reset.status :=
  ⟨_, rfl, by decide⟩

theorem witness_NoErrorWritesLifecycle :
    ∃ t, (running .clear .check 0 Datapath.empty State.reset).run = true ∧
      step (running .clear .check 0 Datapath.empty State.reset) = .next t ∧ t.run = false ∧ t.status ≠ .ok :=
  ⟨_, rfl, rfl, rfl, by decide⟩

/-- A drive and a sample that fault, and a frame at its first effect and at its last. -/
theorem witness_FaultEndsTheOperation :
    let frame := running .clear .stream 4 (pairAt 1 0) (ready [])
    let drive := answered [.fault] (running .reset .pulse 2 Datapath.empty (ready []))
    let sample := answered [.fault] (running .sleep .poll 3 (polled 3) (ready []))
    (Inv drive ∧ 0 < effectCount .pulse 2 ∧ NextOk 0 drive ∧ drive.faults[0]? = some .fault) ∧
    (Inv sample ∧ 0 < effectCount .poll 3 ∧ NextOk 0 sample ∧ sample.faults[0]? = some .fault) ∧
    (Inv (answered [.fault] frame) ∧ 0 < effectCount .stream 4 ∧ NextOk 0 (answered [.fault] frame)) ∧
    (Inv (answered [.ok, .ok, .ok, .fault] frame) ∧ 3 < effectCount .stream 4 ∧
      NextOk 3 (answered [.ok, .ok, .ok, .fault] frame) ∧
      (answered [.ok, .ok, .ok, .fault] frame).faults[3]? = some .fault) := by
  have none : ∀ s, NextOk 0 s := by simp [NextOk]
  have frame : ∀ faults, Inv (answered faults (running .clear .stream 4 (pairAt 1 0) (ready []))) := fun _ =>
    ⟨⟨rfl, rfl, rfl, 1, 0, rfl, rfl, by decide, by decide, rfl, fun h => by simp at h⟩, rfl, rfl⟩
  refine ⟨⟨⟨⟨rfl, rfl, trivial, (by decide : 2 < 6)⟩, rfl, rfl⟩, by decide, none _, rfl⟩,
    ⟨⟨⟨rfl, rfl, rfl, rfl, fun h => by simp at h⟩, rfl, rfl⟩, by decide, none _, rfl⟩,
    ⟨frame _, by decide, none _⟩, frame _, by decide, ?_, rfl⟩
  intro a ha
  simpa [answered] using ha

/-- A command of `INIT_SEQ`; a configuration the spec allows, with a power-on step; a command of another operation. -/
theorem witness_OnlyListedCommandsAreSent :
    (∃ t, step (running .init .initCmd 10 (stepAt 10) State.reset) = .next t ∧ t.tr = [] ++ [.tx .command 0xE5#8 .ok]) ∧
    (configWf State.reset.cfg = true ∧ ⟨0x04#8, [], true⟩ ∈ State.reset.cfg.initSeq ∧ State.reset.cfg.codes.powerOn = 0x04#8) ∧
    (∃ t, step (running .sleep .powerOffCmd 0 Datapath.empty (ready [])) = .next t ∧
      t.tr = [] ++ [.tx .command 0x02#8 .ok]) :=
  ⟨⟨_, rfl, by decide⟩, by decide, _, rfl, by decide⟩

theorem witness_WireFrameHoldsPixelCodes :
    (∃ t, step (running .clear .stream 0 (pairAt 0 0) (ready [])) = .next t) ∧
    (∃ t, step (running .display .stream 0 (pairAt 0 0) (ready [])) = .next t) := ⟨⟨_, rfl⟩, _, rfl⟩

theorem witness_BusyIsReadOnlyInWaits :
    ∃ t, step (running .sleep .poll 0 (polled 0) (ready [.low])) = .next t ∧ t.tr = [] ++ [.readBusy (.level .low)] :=
  ⟨_, rfl, by decide⟩

/-- A pixel whose step writes, one whose step does not, block reset; a byte of `PBB` that is read, with another buffer that agrees
there; a pixel that is read, with another image that agrees there; an idle block and an image of the same size. -/
theorem witness_OnlyConvertWritesTheBuffer :
    (∃ t, step (running .convert .pixel 7 (pixelAt 7 0 0x00#8) (ready [])) = .next t ∧ t.pbb = [(0, 0x01#8)] ∧
      (running .convert .pixel 7 (pixelAt 7 0 0x00#8) (ready [])).cvWrite = some (0, 0x01#8)) ∧
    (∃ t, step (running .convert .pixel 6 (pixelAt 6 0 0x00#8) (ready [])) = .next t ∧
      (running .convert .pixel 6 (pixelAt 6 0 0x00#8) (ready [])).cvWrite = none) ∧
    (∃ t, step { running .convert .pixel 7 (pixelAt 7 0 0x00#8) (ready []) with port := ⟨false, false, 0#3, 0⟩ } = .next t) ∧
    (let s := running .display .stream 4 (pairAt 1 0) (ready []);
      State.run s = true ∧ (∃ t, step s = .next t) ∧ s.bufAddr = some 1 ∧ pbbByte [(0, 0x1B#8)] 1 = pbbByte s.pbb 1 ∧ s.cvWrite = none) ∧
    (let s := running .convert .pixel 0 (pixelAt 0 0 0x00#8) { ready [] with img := plain 2 1 [] };
      State.run s = true ∧ (∃ t, step s = .next t) ∧ s.pxX = some 0 ∧ s.pxY = some 0 ∧ (plain 2 1 [1]).pixel 0 0 = s.img.pixel 0 0) ∧
    ((∃ t, step State.reset = .next t) ∧ State.reset.run = false ∧ (plain 0 0 []).w = State.reset.img.w ∧
      (plain 0 0 []).h = State.reset.img.h ∧ State.reset.pxX = none) :=
  ⟨⟨_, rfl, by decide, rfl⟩, ⟨_, rfl, rfl⟩, ⟨_, rfl⟩, ⟨rfl, ⟨_, rfl⟩, rfl, by decide, rfl⟩, ⟨rfl, ⟨_, rfl⟩, rfl, rfl, by decide⟩,
    ⟨_, rfl⟩, rfl, rfl, rfl, rfl⟩

end Sys2Proof.Tests
end

section
/-! SUPPORT. The Image Converter: the accumulator and the packed byte, the step of `Convert` at a pixel, and the run from the
acceptance of a `Convert` to its completion. -/

namespace Sys2Proof.Machine

/-! ### The accumulator and the packed byte -/

/-- ACC after the first `m` pixels of byte `g` of row `j`, from 0 (43_image_converter.md R186). -/
def accumulated (c : Config) (img : Image) (g j m : Nat) : Byte :=
  ((List.range m).map fun n => pixelBit c img (8 * g + n) j).foldl accumulate 0#8

section
variable (c : Config) (img : Image) (g j : Nat)

@[simp] theorem accumulated_zero : accumulated c img g j 0 = 0#8 := rfl

theorem accumulated_succ (m : Nat) :
    accumulated c img g j (m + 1) = accumulate (accumulated c img g j m) (pixelBit c img (8 * g + m) j) := by
  simp [accumulated, List.range_succ]

/-- An addition to ACC, as arithmetic (10_state.md R29). -/
theorem accumulate_ofNat (a : Nat) (v : Bool) :
    accumulate (BitVec.ofNat 8 a) v = BitVec.ofNat 8 (2 * a + v.toNat) := by
  have bit : ∀ acc : Byte, accumulate acc v = acc + acc + BitVec.ofNat 8 v.toNat := by
    cases v <;> decide
  rw [bit, ← BitVec.ofNat_add, ← BitVec.ofNat_add, Nat.two_mul]

/-- Additions to ACC evaluate their bits in base 2, the first the most significant. -/
theorem foldl_accumulate_ofNat (bits : List Bool) (a : Nat) :
    bits.foldl accumulate (BitVec.ofNat 8 a) = BitVec.ofNat 8 (bits.foldl (fun x v => 2 * x + v.toNat) a) := by
  induction bits generalizing a with
  | nil => rfl
  | cons v rest ih => rw [List.foldl_cons, accumulate_ofNat, ih, List.foldl_cons]

/-- The sum of R184 is what eight additions to ACC leave. -/
theorem packedByte_eq_accumulated : packedByte c img g j = accumulated c img g j 8 := by
  rw [accumulated, foldl_accumulate_ofNat, packedByte]
  congr 1
  simp only [List.range_succ, List.range_zero, List.nil_append, List.cons_append, List.map_cons, List.map_nil,
    List.sum_cons, List.sum_nil, List.foldl_cons, List.foldl_nil]
  omega

/-- The bit just added is bit 0. -/
theorem getLsbD_accumulate_zero (acc : Byte) (v : Bool) : (accumulate acc v).getLsbD 0 = v := by
  simp [accumulate]

/-- The bits added before move up by one. -/
theorem getLsbD_accumulate_succ (acc : Byte) (v : Bool) {k : Nat} (hk : k < 7) :
    (accumulate acc v).getLsbD (k + 1) = acc.getLsbD k := by
  have h8 : k + 1 < 8 := by omega
  simp [accumulate, h8, -BitVec.getLsbD_eq_getElem]

/-- The bit of pixel `n` lies below those of the pixels before it. -/
theorem getLsbD_accumulated {m n : Nat} (hm : m ≤ 8) (hn : n < m) :
    (accumulated c img g j m).getLsbD (m - 1 - n) = pixelBit c img (8 * g + n) j := by
  induction m with
  | zero => omega
  | succ m ih =>
    rw [accumulated_succ]
    rcases Nat.lt_succ_iff_lt_or_eq.mp hn with h | rfl
    · have e : m + 1 - 1 - n = (m - 1 - n) + 1 := by omega
      rw [e, getLsbD_accumulate_succ _ _ (by omega), ih (by omega) h]
    · rw [show n + 1 - 1 - n = 0 by omega, getLsbD_accumulate_zero]

variable {c img g j}

/-- Eight equal bits pack to 0xFF or to 0x00. -/
theorem packedByte_of_uniform {v : Bool} (h : ∀ n, n < 8 → pixelBit c img (8 * g + n) j = v) :
    packedByte c img g j = if v then 0xFF#8 else 0x00#8 := by
  have bits : ((List.range 8).map fun n => pixelBit c img (8 * g + n) j) = List.replicate 8 v :=
    List.map_eq_replicate_iff.mpr fun n hn => h n (List.mem_range.mp hn)
  rw [packedByte_eq_accumulated, accumulated, bits]
  cases v <;> decide

end

/-! ### The bit of a pixel -/

@[simp] theorem quantize_black (c : Config) : quantize c 0x000000#24 = false := by
  simp [quantize, paletteBlack]

@[simp] theorem quantize_white (c : Config) : quantize c 0xFFFFFF#24 = true := by
  simp [quantize, paletteBlack, paletteWhite]

/-- Within the image the bit is that of the pixel (R182). -/
theorem pixelBit_inside {img : Image} {x y : Nat} (c : Config) (hx : x < img.w) (hy : y < img.h) :
    pixelBit c img x y = quantize c (img.pixel x y) := by
  simp [pixelBit, boundedBit, inBounds, hx, hy]

/-- A byte that lies within an image of one colour, whose bit is `v`, is 0xFF or 0x00 (R189, R190). -/
theorem packedByte_of_pure {c : Config} {img : Image} {p : Rgb} {v : Bool} {g j : Nat} (hv : quantize c p = v)
    (hp : ∀ x y, x < img.w → y < img.h → img.pixel x y = p) (hg : 8 * g + 8 ≤ img.w) (hj : j < img.h) :
    packedByte c img g j = if v then 0xFF#8 else 0x00#8 := by
  refine packedByte_of_uniform fun n hn => ?_
  have hx : 8 * g + n < img.w := by omega
  rw [pixelBit_inside c hx hj, hp _ _ hx hj, hv]

/-! ### The step at a pixel and at completion -/

section
variable {s t : State} {i j k : Nat} {acc : Byte}

/-- Away from the 8th column of a byte the bit is added to ACC. -/
theorem pixelStep_add (h : i % 8 ≠ 7) :
    pixelStep i j acc s = .ok (nextPixel i j (accumulate acc (s.convertBit i j)) s) := by
  simp [pixelStep, h]

/-- At the 8th column ACC is flushed into its byte of `PBB` (R185). -/
theorem pixelStep_flush (h : i % 8 = 7) (ha : pbbAddr i j < bufSz) :
    pixelStep i j acc s =
      .ok (nextPixel i j 0#8 (s.writePbb (pbbAddr i j) (accumulate acc (s.convertBit i j)))) := by
  simp [pixelStep, h, pbbExists, ha]

/-- The step of `Convert` at a pixel is that pixel's. -/
theorem step_pixel (hrst : s.port.rstN = true) (hr : s.run = true) (hs : s.seq = .pos .convert .pixel k)
    (hi : s.dp.ci = some i) (hj : s.dp.cj = some j) (ha : s.dp.acc = some acc)
    (h : pixelStep i j acc s.clearDone = .ok t) : step s = .next t := by
  have hf : fetch s.clearDone = .ok (.convert, s.clearDone) :=
    fetch_pos (s := s.clearDone) hs rfl
  have hx : exec .convert s.clearDone = .next t := by
    simp [exec, execConvert, convertPixel, readReg, hr, hs, hi, hj, ha, h]
  have hadv : ∀ level, advance (.pos .convert .pixel k) level t = .ok t := by
    intro level
    cases hrt : t.run <;> simp [advance, advancePhase, hrt]
  simp [step_running hrst hr, runStep, hf, hx, hs, hadv, outcomeOf]

/-- The completion of `Convert`. -/
theorem step_convertDone (hrst : s.port.rstN = true) (hr : s.run = true) (hs : s.seq = .pos .convert .done k) :
    step s = .next (s.finish .ok) := by
  have hf : fetch s.clearDone = .ok (.convert, s.clearDone) :=
    fetch_pos (s := s.clearDone) hs rfl
  have hx : exec .convert s.clearDone = .next (s.finish .ok) := by
    simp [exec, execConvert, operate, hr, hs, State.finish, State.clearDone]
  simp [step_running hrst hr, runStep, hf, hx, advance, outcomeOf]

end

/-! ### The run of a `Convert` -/

/-- ACC before pixel `n` of the panel, in raster order: the bits of the pixels before it in its byte. -/
def accBefore (c : Config) (img : Image) (n : Nat) : Byte := accumulated c img (n / 8 % 80) (n / 8 / 80) (n % 8)

/-- At the first pixel of a byte ACC is 0. -/
theorem accBefore_byteStart (c : Config) (img : Image) {n : Nat} (h : n % 8 = 0) : accBefore c img n = 0#8 := by
  rw [accBefore, h, accumulated_zero]

/-- The `Convert` accepted in `s` is at pixel `n` of the panel, in raster order, with `PBB` holding `m`. -/
def converting (s : State) (done : Bool) (n : Nat) (m : List Host.Cell) : State :=
  { s with
    run := true, seq := .pos .convert .pixel n, operands := s.offeredOperands,
    port := { s.port with opValid := false }, opDone := done, pbb := m,
    dp := { s.dp with ci := some (n % 640), cj := some (n / 640), acc := some (accBefore s.cfg s.img n) } }

/-- The `Convert` accepted in `s` has completed, with `PBB` holding `m`. -/
def converted (s : State) (m : List Host.Cell) : State :=
  { s with
    status := .ok, run := false, seq := .idle, operands := s.offeredOperands,
    port := { s.port with opValid := false }, opDone := true, pbb := m, dp := Datapath.empty }

/-- `PBB` is canonical, and its bytes below `b` are the packed bytes of the image. -/
structure PackedBelow (c : Config) (img : Image) (b : Nat) (m : List Host.Cell) : Prop where
  wf : memWf pbbDefault bufSz m = true
  bytes : ∀ a, a < b → pbbByte m a = packedByte c img (a % 80) (a / 80)

/-- The packed byte written at the border moves it up by one. -/
theorem PackedBelow.write {c : Config} {img : Image} {b : Nat} {s : State} (h : PackedBelow c img b s.pbb)
    (hb : b < bufSz) : PackedBelow c img (b + 1) (s.writePbb b (packedByte c img (b % 80) (b / 80))).pbb where
  wf := writePbb_wf h.wf _ hb
  bytes a ha := by
    rcases Nat.lt_succ_iff_lt_or_eq.mp ha with hlt | rfl
    · rw [pbbByte_writePbb_ne _ (Nat.ne_of_lt hlt), h.bytes a hlt]
    · exact pbbByte_writePbb_same h.wf a _

/-- The byte of the pixel numbered `n` in raster order is byte `n / 8` of `PBB`. -/
theorem pbbAddr_raster (n : Nat) : pbbAddr (n % 640) (n / 640) = n / 8 := by
  have hw : widthBytes = 80 := rfl
  rw [pbbAddr, hw]
  omega

section
variable {s : State} {done : Bool} {n : Nat} {m : List Host.Cell}

/-- ACC with the bit of pixel `n` added: the bits of its byte up to it. -/
theorem accumulate_convertBit_converting :
    accumulate (accBefore s.cfg s.img n) ((converting s done n m).convertBit (n % 640) (n / 640)) =
      accumulated s.cfg s.img (n / 8 % 80) (n / 8 / 80) (n % 8 + 1) := by
  have hx : 8 * (n / 8 % 80) + n % 8 = n % 640 := by omega
  have hy : n / 8 / 80 = n / 640 := by omega
  have hbit : (converting s done n m).convertBit (n % 640) (n / 640) = pixelBit s.cfg s.img (n % 640) (n / 640) := rfl
  rw [accumulated_succ, hx, hy, hbit, accBefore, hy]

/-- A pixel's step: the next position, ACC as it stands there, and `PBB` packed up to the byte of the next pixel. -/
theorem step_converting (hrst : s.port.rstN = true) (hn : n < 245760) (hm : PackedBelow s.cfg s.img (n / 8) m) :
    ∃ m', PackedBelow s.cfg s.img ((n + 1) / 8) m' ∧
      step (converting s done n m) =
        .next (nextPixel (n % 640) (n / 640) (accBefore s.cfg s.img (n + 1)) (converting s false n m')) := by
  have hstep {t : State} := step_pixel (s := converting s done n m) (t := t) hrst rfl rfl rfl rfl rfl
  have hadd := accumulate_convertBit_converting (s := s) (done := false) (n := n) (m := m)
  have hbuf : bufSz = 30720 := rfl
  by_cases h7 : n % 8 = 7
  · have hbyte : n / 8 < bufSz := by omega
    have hnext : (n + 1) / 8 = n / 8 + 1 := by omega
    have hacc := accBefore_byteStart s.cfg s.img (by omega : (n + 1) % 8 = 0)
    refine ⟨_, hnext ▸ PackedBelow.write (s := converting s false n m) hm hbyte, hstep ?_⟩
    have haddr : pbbAddr (n % 640) (n / 640) < bufSz := by rwa [pbbAddr_raster]
    refine (pixelStep_flush (s := converting s false n m) (by omega) haddr).trans ?_
    rw [hadd, h7, ← packedByte_eq_accumulated, pbbAddr_raster, hacc]
    rfl
  · have hnext : (n + 1) / 8 = n / 8 := by omega
    have hacc : accBefore s.cfg s.img (n + 1) = accumulated s.cfg s.img (n / 8 % 80) (n / 8 / 80) (n % 8 + 1) := by
      rw [accBefore, hnext, show (n + 1) % 8 = n % 8 + 1 by omega]
    refine ⟨m, hnext ▸ hm, hstep ?_⟩
    refine (pixelStep_add (s := converting s false n m) (by omega)).trans ?_
    rw [hadd, hacc]

/-- After any pixel but the last the loops stand at the next one in raster order. -/
theorem nextPixel_converting (hn : n + 1 < 245760) :
    nextPixel (n % 640) (n / 640) (accBefore s.cfg s.img (n + 1)) (converting s false n m) =
      converting s false (n + 1) m := by
  have hw : panelW = 640 := rfl
  have hh : panelH = 384 := rfl
  unfold nextPixel
  rw [hw, hh]
  by_cases hrow : n % 640 + 1 < 640
  · have hi : n % 640 + 1 = (n + 1) % 640 := by omega
    have hj : n / 640 = (n + 1) / 640 := by omega
    have hk : 640 * ((n + 1) / 640) + n % 640 + 1 = n + 1 := by omega
    rw [if_pos hrow, hi, hj, hk]
    simp only [converting, hj, State.goto, State.setDp]
  · have hi : (n + 1) % 640 = 0 := by omega
    have hj : n / 640 + 1 = (n + 1) / 640 := by omega
    have hk : 640 * ((n + 1) / 640) = n + 1 := by omega
    have hacc := accBefore_byteStart s.cfg s.img (by omega : (n + 1) % 8 = 0)
    rw [if_neg hrow, hj, if_pos (by omega : (n + 1) / 640 < 384), hk]
    simp only [converting, hi, hacc, State.goto, State.setDp]

/-- After the last pixel `Convert` completes. -/
theorem step_lastPixel (hrst : s.port.rstN = true) (acc : Byte) :
    step (nextPixel 639 383 acc (converting s false n m)) = .next (converted s m) :=
  step_convertDone (s := nextPixel 639 383 acc (converting s false n m)) (k := 0) hrst rfl rfl

/-- `Convert`, `n` pixels on. -/
theorem runs_converting (hrst : s.port.rstN = true) (hm : PackedBelow s.cfg s.img 0 m) (hn : n < 245760) :
    ∃ done' m', PackedBelow s.cfg s.img (n / 8) m' ∧
      runs n (converting s done 0 m) = .next (converting s done' n m') := by
  induction n with
  | zero => exact ⟨done, m, hm, rfl⟩
  | succ n ih =>
    obtain ⟨done', m', hm', hruns⟩ := ih (by omega)
    obtain ⟨m'', hm'', hstep⟩ := step_converting (done := done') hrst (by omega : n < 245760) hm'
    rw [nextPixel_converting hn] at hstep
    exact ⟨false, m'', hm'', (runs_add hruns).trans (runs_one hstep)⟩

end

/-- Acceptance of a `Convert` starts its loops at pixel 0. -/
theorem exec_convert_idle {s : State} (hr : s.run = false) :
    exec .convert s = .next (converting s s.opDone 0 s.pbb) := by
  simp only [exec, execConvert, hr]
  rfl

/-- `Convert` from its acceptance to its completion, for any image: every byte of `PBB` is the packed byte of its pixels
(R180, R184, R186), and nothing else is written but what acceptance and completion write. -/
theorem convert_completes {s : State} (hs : Waiting s) (hm : memWf pbbDefault bufSz s.pbb = true) :
    ∃ u k m, exec .convert s = .next u ∧ runs k u = .next (converted s m) ∧ PackedBelow s.cfg s.img 30720 m := by
  obtain ⟨hrst, hr⟩ := hs
  have hstart : PackedBelow s.cfg s.img 0 s.pbb := ⟨hm, fun a ha => absurd ha (Nat.not_lt_zero a)⟩
  obtain ⟨done, m, hpacked, hruns⟩ := runs_converting (done := s.opDone) hrst hstart (by omega : 245759 < 245760)
  obtain ⟨m', hpacked', hlast⟩ := step_converting (done := done) hrst (by omega : 245759 < 245760) hpacked
  exact ⟨_, _, m', exec_convert_idle hr,
    (runs_add hruns).trans ((runs_succ hlast).trans (runs_one (step_lastPixel hrst _))), hpacked'⟩

end Sys2Proof.Machine
end

section
/-! SUPPORT. The statements of 43_image_converter.md: `Convert` of pure images, and the packed byte as ACC builds it. -/

open Sys2Proof Sys2Proof.Machine

/-- Settles O45: both clauses by what an addition to ACC does, to its value and to its bits. -/
theorem packedByteIsTheAccumulator : Obligations.PackedByteIsTheAccumulator := by
  intro c img g j
  have hacc := packedByte_eq_accumulated c img g j
  exact ⟨hacc, fun n hn => hacc ▸ getLsbD_accumulated c img g j (Nat.le_refl 8) hn⟩

/-- Settles O42: the run of `Convert` leaves packed bytes, which a pure image makes uniform. -/
theorem convertOfPureImages : Obligations.ConvertOfPureImages := by
  intro s hs hm hw hh
  obtain ⟨u, k, m, hu, hruns, hpacked⟩ := convert_completes hs hm
  have uniform {p : Rgb} {v : Bool} (hv : quantize s.cfg p = v)
      (hp : ∀ x y, x < 640 → y < 384 → s.img.pixel x y = p) (a : Nat) (ha : a < 30720) :
      pbbByte m a = if v then 0xFF#8 else 0x00#8 := by
    rw [hpacked.bytes a ha]
    exact packedByte_of_pure hv (by rwa [hw, hh]) (by omega) (by omega)
  exact ⟨u, k, converted s m, hu, hruns, rfl, rfl, uniform (quantize_black s.cfg), uniform (quantize_white s.cfg)⟩

end


section
/-! SUPPORT. The wire frame of a buffer: its length, and the frame of a buffer of equal bytes. -/

namespace Sys2Proof.Machine

/-- The four bytes of a white buffer byte (44_wire_encoder.md R207). -/
theorem expandPairs_white : expandPairs 0xFF#8 = List.replicate 4 0x33#8 := by decide

/-- The four bytes of a black buffer byte (R207). -/
theorem expandPairs_black : expandPairs 0x00#8 = List.replicate 4 0x00#8 := by decide

/-- Buffer bytes that all expand to four bytes `w` give a stream of bytes `w`. -/
theorem wireStream_of_uniform {m : List Host.Cell} {w : Byte} {n a : Nat}
    (h : ∀ x, a ≤ x → x < a + n → expandPairs (pbbByte m x) = List.replicate 4 w) :
    wireStream m n a = List.replicate (4 * n) w := by
  induction n generalizing a with
  | zero => rfl
  | succ n ih =>
    have hrest : wireStream m n (a + 1) = List.replicate (4 * n) w :=
      ih fun x hx hlt => h x (by omega) (by omega)
    rw [wireStream, h a (Nat.le_refl a) (by omega), hrest, List.replicate_append_replicate, Nat.mul_succ, Nat.add_comm]

/-- `BUFSZ` of the panel (00_scope.md R5). -/
theorem bufSz_eq : bufSz = 30720 := rfl

/-- The length invariant of R206. -/
theorem encodeBuffer_length (m : List Host.Cell) : (encodeBuffer m).length = 4 * bufSz :=
  wireStream_length m bufSz 0

/-- A buffer of equal bytes, which expand to four bytes `w`, gives a wire frame of bytes `w`. -/
theorem encodeBuffer_of_uniform {m : List Host.Cell} {b w : Byte} (hb : expandPairs b = List.replicate 4 w)
    (h : ∀ a, a < 30720 → pbbByte m a = b) : encodeBuffer m = List.replicate 122880 w :=
  wireStream_of_uniform (n := 30720) fun a _ ha => h a (by omega) ▸ hb

end Sys2Proof.Machine
end

section
/-! SUPPORT. The statement of 44_wire_encoder.md about the length of the wire frame and the frames of pure buffers. -/

open Sys2Proof Sys2Proof.Machine

/-- Settles O29: four wire bytes a buffer byte, by induction along the stream, which equal buffer bytes make uniform. -/
theorem uniformBuffersGiveUniformFrames : Obligations.UniformBuffersGiveUniformFrames := by
  intro m
  have hlen := encodeBuffer_length m
  refine ⟨?_, ?_, encodeBuffer_of_uniform expandPairs_white, encodeBuffer_of_uniform expandPairs_black,
    expandPairs_white, expandPairs_black⟩
  · rw [hlen, bufSz, Nat.mul_assoc]
  · rw [hlen, bufSz_eq]

end

section
/-! SUPPORT. The three encodings, read back: which words decode, and where a table word that decodes is placed. -/

namespace Sys2Proof.Laws

open Machine

/-- Every instruction of the table is read back from its word. -/
theorem codec : ∀ i, Codec.Statement i
  | .reset => Codec.reset
  | .init => Codec.init
  | .clear => Codec.clear
  | .display => Codec.display
  | .sleep => Codec.sleep
  | .convert => Codec.convert
  | .reserved110 => Codec.reserved110
  | .reserved111 => Codec.reserved111
  | .turnOnDisplay => Codec.turnOnDisplay
  | .busyWait => Codec.busyWait
  | .encode => Codec.encode
  | .expandByteToNibblePairs b => Codec.expandByteToNibblePairs b
  | .setLine line level => Codec.setLine line level
  | .readLine line => Codec.readLine line
  | .transmitByte kind value => Codec.transmitByte kind value
  | .pulseReset pattern => Codec.pulseReset pattern
  | .delay ms => Codec.delay ms
  | .frameCommand value => Codec.frameCommand value
  | .frameData value => Codec.frameData value
  | .cmdPanelSetting => Codec.cmdPanelSetting
  | .cmdPowerSetting => Codec.cmdPowerSetting
  | .cmdPowerOff => Codec.cmdPowerOff
  | .cmdPowerOn => Codec.cmdPowerOn
  | .cmdBoosterSoftStart => Codec.cmdBoosterSoftStart
  | .cmdDeepSleep => Codec.cmdDeepSleep
  | .cmdDataStartTransmission => Codec.cmdDataStartTransmission
  | .cmdDataStop => Codec.cmdDataStop
  | .cmdDisplayRefresh => Codec.cmdDisplayRefresh
  | .cmdPllControl => Codec.cmdPllControl
  | .cmdTemperatureCalibration => Codec.cmdTemperatureCalibration
  | .cmdVcomAndDataIntervalSetting => Codec.cmdVcomAndDataIntervalSetting
  | .cmdTconSetting => Codec.cmdTconSetting
  | .cmdTconResolution => Codec.cmdTconResolution
  | .cmdFlashControl => Codec.cmdFlashControl
  | .cmdRevision => Codec.cmdRevision
  | .cmdGetStatus => Codec.cmdGetStatus
  | .cmdVcomAutoMeasure => Codec.cmdVcomAutoMeasure
  | .cmdVcomRead => Codec.cmdVcomRead
  | .cmdVcmDcSetting => Codec.cmdVcmDcSetting
  | .cmdFlashMode => Codec.cmdFlashMode
  | .cmdLut index => Codec.cmdLut index
  | .wire00 => Codec.wire00
  | .wire03 => Codec.wire03
  | .wire30 => Codec.wire30
  | .wire33 => Codec.wire33

/-! ### Which bytes decode -/

/-- The instructions an op_code can name (30_encoding.md R82, R83). -/
def opreqRows : List Instr := [.reset, .init, .clear, .display, .sleep, .convert, .reserved110, .reserved111]

/-- The instructions a wire byte can be (30_encoding.md R89). -/
def wireRows : List Instr := [.wire00, .wire03, .wire30, .wire33]

theorem decodeOpCode_mem (code : BitVec 3) : decodeOpCode code ∈ opreqRows := by
  revert code; decide

/-- A byte that is an op_code is the word of the row it names. -/
theorem encode_decodeOpCode (c : CommandCodes) {b : Byte} (hb : b.toNat < 8) :
    encode c (decodeOpCode (b.extractLsb' 0 3)) = some (.opreq, [b]) := by
  have codes : b = 0#8 ∨ b = 1#8 ∨ b = 2#8 ∨ b = 3#8 ∨ b = 4#8 ∨ b = 5#8 ∨ b = 6#8 ∨ b = 7#8 := by
    revert b; decide
  rcases codes with rfl | rfl | rfl | rfl | rfl | rfl | rfl | rfl <;> rfl

/-- The four bytes that are wire bytes, and the rows they are. -/
theorem decodeWire_ok {b : Byte} {i : Instr} (h : decodeWire b = .ok i) :
    (b = 0x00#8 ∧ i = .wire00) ∨ (b = 0x03#8 ∧ i = .wire03) ∨ (b = 0x30#8 ∧ i = .wire30) ∨
      (b = 0x33#8 ∧ i = .wire33) := by
  unfold decodeWire at h
  split at h <;> simp_all [BitVec.toNat_eq]

/-- A frame's two bytes are the word of the frame they decode to. -/
theorem decode_frame_ok (c : CommandCodes) {lo hi : Byte} {rest rest' : List Byte} {i : Instr}
    (h : decode .frame (lo :: hi :: rest) = .ok (i, rest')) :
    encode c i = some (.frame, [lo, hi]) ∧ rest' = rest ∧ (i = .frameCommand lo ∨ i = .frameData lo) := by
  have hhi : hi.toNat < 2 := by
    by_contra hn
    simp [decode, hn] at h
  have kinds : hi = 0x00#8 ∨ hi = 0x01#8 := by
    clear h
    revert hi; decide
  rcases kinds with rfl | rfl
  · obtain ⟨rfl, rfl⟩ := Prod.mk.inj (Except.ok.inj ((decode_command_word lo rest).symm.trans h))
    exact ⟨rfl, rfl, .inl rfl⟩
  · obtain ⟨rfl, rfl⟩ := Prod.mk.inj (Except.ok.inj ((decode_data_word lo rest).symm.trans h))
    exact ⟨rfl, rfl, .inr rfl⟩

/-- Bytes that decode begin with the word of what they decode to, in any format. -/
theorem encode_of_decode (c : CommandCodes) {format : Format} {bytes rest : List Byte} {i : Instr}
    (h : decode format bytes = .ok (i, rest)) : ∃ word, encode c i = some (format, word) ∧ bytes = word ++ rest := by
  cases format with
  | opreq =>
    match bytes, h with
    | b :: tail, h =>
      simp only [decode] at h
      split_ifs at h with hb
      cases h
      exact ⟨[b], encode_decodeOpCode c hb, rfl⟩
  | frame =>
    match bytes, h with
    | lo :: hi :: tail, h =>
      obtain ⟨hword, rfl, -⟩ := decode_frame_ok c h
      exact ⟨[lo, hi], hword, rfl⟩
  | wire =>
    match bytes, h with
    | b :: tail, h =>
      simp only [decode] at h
      cases hw : decodeWire b with
      | error e => simp [hw] at h
      | ok j =>
        simp only [hw, Except.ok.injEq, Prod.mk.injEq] at h
        obtain ⟨rfl, rfl⟩ := h
        rcases decodeWire_ok hw with ⟨rfl, rfl⟩ | ⟨rfl, rfl⟩ | ⟨rfl, rfl⟩ | ⟨rfl, rfl⟩ <;> exact ⟨_, rfl, rfl⟩

/-! ### A table word, placed -/

/-- A table word that decodes is a request, a frame or a wire byte. -/
theorem decodeTableWord_ok {nbits w : Nat} {i : Instr} (h : decodeTableWord nbits w = some i) :
    i ∈ opreqRows ∨ (∃ v, i = .frameCommand v ∨ i = .frameData v) ∨ i ∈ wireRows := by
  have request : ∀ j, requestOfTableWord nbits w = some j → j ∈ opreqRows := by
    intro j hj
    unfold requestOfTableWord at hj
    split_ifs at hj <;> cases hj
    · exact decodeOpCode_mem _
    · simp [opreqRows]
    · simp [opreqRows]
  unfold decodeTableWord at h
  cases hq : requestOfTableWord nbits w with
  | some j =>
    simp only [hq, Option.some.injEq] at h
    exact .inl (h ▸ request j hq)
  | none =>
    simp only [hq] at h
    split_ifs at h
    · refine .inr (.inr ?_)
      simp only [decode] at h
      cases hw : decodeWire (BitVec.ofNat 8 w) with
      | error e => simp [hw, decodedInstr] at h
      | ok j =>
        simp only [hw, decodedInstr, Option.some.injEq] at h
        subst h
        rcases decodeWire_ok hw with ⟨-, rfl⟩ | ⟨-, rfl⟩ | ⟨-, rfl⟩ | ⟨-, rfl⟩ <;> simp [wireRows]
    · refine .inr (.inl ?_)
      cases hd : decode .frame [BitVec.ofNat 8 w, BitVec.ofNat 8 (w / 256)] with
      | error e => simp [hd, decodedInstr] at h
      | ok p =>
        obtain ⟨j, rest⟩ := p
        simp only [hd, decodedInstr, Option.some.injEq] at h
        subst h
        obtain ⟨-, -, hi⟩ := decode_frame_ok defaultCodes hd
        exact ⟨_, hi⟩

/-- A byte other than the default that is written at address 0 is read there, whatever the memory. -/
theorem pbbByte_writePbb_zero (m : List Host.Cell) {b : Byte} (hb : b ≠ pbbDefault) :
    pbbByte (memWrite pbbDefault m 0 b) 0 = b := by
  match m with
  | [] => simp [pbbByte, memWrite, memRead, hb]
  | (k, w) :: rest =>
    simp only [pbbByte, memWrite, if_neg hb]
    split_ifs <;> simp_all [memRead]

/-- A wire byte placed in `PBB` is the first pair that `Display` sends. -/
theorem fetch_placeWire {b : Byte} {i : Instr} (s : State) (hb : b ≠ pbbDefault)
    (hw : decodeWire (wireByte (~~~b) 0) = .ok i) : ∃ s0, fetch (s.placeWire b).clearDone = .ok (i, s0) := by
  refine ⟨loadInv b (s.placeWire b).clearDone, ?_⟩
  have hread : pbbByte (s.placeWire b).clearDone.pbb 0 = b := pbbByte_writePbb_zero s.pbb hb
  have hload : loadWhenTaken 0 0 (s.placeWire b).clearDone = .ok (loadInv b (s.placeWire b).clearDone) := by
    rw [loadWhenTaken, hread]
    rfl
  rw [fetch_pos (s := (s.placeWire b).clearDone) (op := .display) (ph := .stream) (k := 0) rfl rfl]
  show displayPair (s.placeWire b).clearDone = _
  have hbi : (s.placeWire b).clearDone.dp.bi = some 0 := rfl
  have hpp : (s.placeWire b).clearDone.dp.pp = some 0 := rfl
  simp only [displayPair, hbi, hpp, readReg, hload, loadInv_dp, hw]

end Sys2Proof.Laws
end

section
/-! SUPPORT. The statements about the encodings, and where a word of them runs. -/

open Sys2Proof Sys2Proof.Machine

/-- Settles O1, by evaluating the decoder. -/
theorem writtenOutWordsDecode : Obligations.WrittenOutWordsDecode := by
  unfold Obligations.WrittenOutWordsDecode
  decide

/-- Settles O2: the first clause is the family `Codec`, one lemma an instruction; the second looks the fourteen rows up. -/
theorem decodeOfEncodeIsTheInstruction : Obligations.DecodeOfEncodeIsTheInstruction := by
  refine ⟨fun c i format bytes rest hwf h => Laws.codec i c rest format bytes hwf h, fun c v i hi => ?_⟩
  simp only [List.mem_cons, List.not_mem_nil, or_false] at hi
  rcases hi with rfl | rfl | rfl | rfl | rfl | rfl | rfl | rfl | rfl | rfl | rfl | rfl | rfl | rfl <;> exact ⟨rfl, rfl⟩

/-- Settles O3, format by format. -/
theorem encodeOfDecodeIsTheBytes : Obligations.EncodeOfDecodeIsTheBytes :=
  fun c _ _ _ _ h => Laws.encode_of_decode c h

/-- Settles O6: a request is at the port, a frame in the only step of `INIT_SEQ`, a wire byte in byte 0 of `PBB`. -/
theorem placedWordIsRunNext : Obligations.PlacedWordIsRunNext := by
  intro s nbits w i h
  have hplace : s.withFetchWord nbits w = ({ s with port := { s.port with rstN := true } } : State).place i := by
    simp only [State.withFetchWord, State.placeTableWord, h]
  rw [hplace]
  rcases Laws.decodeTableWord_ok h with hi | ⟨v, rfl | rfl⟩ | hi
  · left
    simp only [Laws.opreqRows, List.mem_cons, List.not_mem_nil, or_false] at hi
    rcases hi with rfl | rfl | rfl | rfl | rfl | rfl | rfl | rfl <;> rfl
  · exact .inr ⟨_, rfl, rfl, rfl⟩
  · exact .inr ⟨_, rfl, rfl, rfl⟩
  · right
    simp only [Laws.wireRows, List.mem_cons, List.not_mem_nil, or_false] at hi
    rcases hi with rfl | rfl | rfl | rfl
    · exact (Laws.fetch_placeWire (b := 0x00#8) _ (by decide) rfl).imp fun _ h => ⟨h, rfl, rfl⟩
    · exact (Laws.fetch_placeWire (b := 0x40#8) _ (by decide) rfl).imp fun _ h => ⟨h, rfl, rfl⟩
    · exact (Laws.fetch_placeWire (b := 0x80#8) _ (by decide) rfl).imp fun _ h => ⟨h, rfl, rfl⟩
    · exact (Laws.fetch_placeWire (b := 0xC0#8) _ (by decide) rfl).imp fun _ h => ⟨h, rfl, rfl⟩

end

section
/-! SUPPORT. What one step of an operation does, by position: the primitive that is performed, the move that follows it, and
whether the operation goes on or ends. -/

namespace Sys2Proof.Machine

open Host

/-! ### The primitive at a position -/

/-- The primitive that a position performs in the state `s` (10_state.md R27, the pseudocode of R132 to R137 and R170). -/
inductive PrimitiveAt (op : Op) (s : State) : Phase → Nat → Attempt → Prop where
  | drive (k : Nat) (level : Level) (hk : k % 2 = 0) : PrimitiveAt op s .pulse k (setLine .rst level s)
  | dwell (k ms : Nat) (hk : k % 2 ≠ 0) : PrimitiveAt op s .pulse k (delay ms s)
  | initCmd (k : Nat) (st : InitStep) (hst : st ∈ s.cfg.initSeq) :
      PrimitiveAt op s .initCmd k (transmitByte .command st.cmd s)
  | initArg (k : Nat) (v : Byte) : PrimitiveAt op s .initArg k (transmitByte .data v s)
  | startCmd (k : Nat) : PrimitiveAt op s .startCmd k (transmitByte .command s.cfg.codes.dataStartTransmission s)
  | stream (k : Nat) (b : Byte) (hb : b ∈ [0x00#8, 0x03#8, 0x30#8, 0x33#8]) (hop : op ≠ .display → b = 0x33#8) :
      PrimitiveAt op s .stream k (transmitByte .data b s)
  | refreshCmd (k : Nat) : PrimitiveAt op s .refreshCmd k (transmitByte .command s.cfg.codes.displayRefresh s)
  | refreshDelay (k : Nat) : PrimitiveAt op s .refreshDelay k (delay s.cfg.tRefreshDelay s)
  | poll (k : Nat) : PrimitiveAt op s .poll k (readBusy s)
  | pollDelay (k : Nat) : PrimitiveAt op s .pollDelay k (delay tPoll s)
  | powerOffCmd (k : Nat) : PrimitiveAt op s .powerOffCmd k (transmitByte .command s.cfg.codes.powerOff s)
  | deepSleepCmd (k : Nat) : PrimitiveAt op s .deepSleepCmd k (transmitByte .command s.cfg.codes.deepSleep s)
  | deepSleepArg (k : Nat) : PrimitiveAt op s .deepSleepArg k (transmitByte .data s.cfg.argDeepSleep s)

/-- The instruction read at a position is the primitive of that position. -/
theorem primitiveAt_of_fetch {op : Op} {ph : Phase} {k : Nat} {s s0 : State} {i : Instr} {a : Attempt}
    (hc : isControl ph = false) (hf : fetchPhase op ph k s = .ok (i, s0)) (ha : attemptOf i s0 = some a) :
    PrimitiveAt op s0 ph k a := by
  cases ph <;> simp only [isControl, Bool.true_eq_false] at hc <;> simp only [fetchPhase] at hf
  case pulse =>
    obtain ⟨hi, rfl⟩ := inState_cases hf
    obtain ⟨level, d, -, ⟨hk, rfl⟩ | ⟨hk, rfl⟩⟩ := pulsePrimitive_cases hi
    · cases ha; exact .drive k level hk
    · cases ha; exact .dwell k d hk
  case initCmd =>
    obtain ⟨hi, rfl⟩ := inState_cases hf
    obtain ⟨st, hst, rfl⟩ := initCommand_cases hi
    obtain ⟨si, -, hget⟩ := currentInitStep_cases hst
    cases ha
    exact .initCmd k st (List.mem_of_getElem? hget)
  case initArg =>
    obtain ⟨hi, rfl⟩ := inState_cases hf
    obtain ⟨st, ai, v, -, -, -, rfl⟩ := initArgument_cases hi
    cases ha
    exact .initArg k v
  case stream =>
    split_ifs at hf with hop
    · obtain ⟨bi, pp, inv, -, -, -, hd, -⟩ := displayPair_cases hf
      cases (attemptOf_decodeWire hd s0).symm.trans ha
      refine .stream k _ ?_ fun h => absurd hop h
      rcases Laws.decodeWire_ok hd with ⟨e, -⟩ | ⟨e, -⟩ | ⟨e, -⟩ | ⟨e, -⟩ <;> simp [e]
    · cases hf
      cases ha
      exact .stream k 0x33#8 (by simp) fun _ => rfl
  all_goals
    cases hf
    cases ha
    constructor

/-! ### The move after a primitive -/

/-- How `LS` may differ after a move to position (ph', k'), from what it was before it (41_protocol_driver.md R139). -/
def LsMove (op : Op) (ph : Phase) (k : Nat) (ph' : Phase) (k' : Nat) (before after : Lifecycle) : Prop :=
  after = before ∨ ((op = .reset ∨ op = .init) ∧ ph = .pulse ∧ 6 ≤ k + 1 ∧ after = .unpowered) ∨
    (op = .init ∧ ph ≠ .check ∧ ph' = .done ∧ k' = 0 ∧ after = .ready) ∨
    (op = .sleep ∧ ph = .deepSleepArg ∧ ph' = .done ∧ k' = 0 ∧ after = .sleeping)

/-- Another position of the same operation: the registers and LS are all that may differ. -/
def MovedOn (op : Op) (ph : Phase) (k : Nat) (s t : State) : Prop :=
  ∃ ls d ph' k', t = { s with ls := ls, dp := d, seq := .pos op ph' k' } ∧ LsMove op ph k ph' k' s.ls ls

/-- A move that leaves LS alone. -/
theorem MovedOn.goto {op : Op} {ph : Phase} {k : Nat} {s : State} (d : Datapath) (ph' : Phase) (k' : Nat) :
    MovedOn op ph k s ((s.setDp d).goto op ph' k') := ⟨s.ls, d, ph', k', rfl, .inl rfl⟩

/-- The next step of `INIT_SEQ`, or the completion of `Init`. -/
theorem enterInitStep_movedOn {ph : Phase} (hph : ph ≠ .check) (k si : Nat) (d : Datapath) (s : State) :
    MovedOn .init ph k s (enterInitStep si (s.setDp d)) := by
  unfold enterInitStep
  split_ifs
  · exact .goto _ _ _
  · exact ⟨.ready, d, .done, 0, rfl, .inr (.inr (.inl ⟨rfl, hph, rfl, rfl, rfl⟩))⟩

/-- After the frames of a step of `INIT_SEQ`. -/
theorem afterInitFrames_movedOn {ph : Phase} (hph : ph ≠ .check) (k : Nat) (st : InitStep) (si : Nat) (s : State) :
    MovedOn .init ph k s (afterInitFrames st si s) := by
  unfold afterInitFrames
  cases st.wait with
  | true => exact .goto _ _ _
  | false => exact enterInitStep_movedOn hph k (si + 1) s.dp s

/-- After a primitive of the pulse. -/
theorem advancePulse_movedOn {op : Op} {k : Nat} {s : State} (hp : op.hasPhase .pulse = true) :
    MovedOn op .pulse k s (advancePulse op k s) := by
  unfold advancePulse
  split_ifs with hk
  · exact .goto s.dp _ _
  · have hk6 : 6 ≤ k + 1 := Nat.not_lt.mp hk
    unfold afterPulse
    split_ifs with hop
    · subst hop
      unfold enterInitStep
      split_ifs
      · exact ⟨.unpowered, _, _, _, rfl, .inr (.inl ⟨.inr rfl, rfl, hk6, rfl⟩)⟩
      · exact ⟨.ready, _, .done, 0, rfl, .inr (.inr (.inl ⟨rfl, by simp, rfl, rfl, rfl⟩))⟩
    · have hreset : op = .reset := by cases op <;> simp_all [Op.hasPhase]
      exact ⟨.unpowered, s.dp, .done, 0, rfl, .inr (.inl ⟨.inl hreset, rfl, hk6, rfl⟩)⟩

/-- The move after a primitive stays within the operation, or raises `Timeout` in a poll. -/
theorem advancePhase_movedOn {op : Op} {ph : Phase} {k : Nat} {level : Level} {s t : State} (hc : isControl ph = false)
    (hp : op.hasPhase ph = true) (h : advancePhase op ph k level s = .ok t) :
    MovedOn op ph k s t ∨ (ph = .poll ∧ ∃ d, t = (s.setDp d).raise .timeout) := by
  cases ph <;> simp only [isControl, Bool.true_eq_false] at hc <;> simp only [advancePhase] at h
  case pulse =>
    cases h
    exact .inl (advancePulse_movedOn hp)
  case initCmd =>
    have hop : op = .init := by cases op <;> simp_all [Op.hasPhase]
    subst hop
    unfold advanceInitCmd at h
    split at h <;> try cases h
    split_ifs at h <;> cases h
    · exact .inl (.goto _ _ _)
    · exact .inl (afterInitFrames_movedOn (by simp) _ _ _ _)
  case initArg =>
    have hop : op = .init := by cases op <;> simp_all [Op.hasPhase]
    subst hop
    unfold advanceInitArg at h
    split at h <;> try cases h
    split_ifs at h <;> cases h
    · exact .inl (.goto _ _ _)
    · exact .inl (afterInitFrames_movedOn (by simp) _ _ _ _)
  case stream =>
    unfold advanceStream at h
    split at h <;> try cases h
    split_ifs at h <;> cases h
    · exact .inl (.goto _ _ _)
    · exact .inl (.goto _ _ _)
    · exact .inl (.goto s.dp _ _)
  case poll =>
    cases level with
    | high =>
      simp only [advancePoll, afterWait] at h
      cases op <;> dsimp only at h
      case init =>
        split at h <;> cases h
        exact .inl (enterInitStep_movedOn (by simp) _ _ _ _)
      all_goals
        cases h <;> exact .inl (.goto _ _ _)
    | low =>
      simp only [advancePoll, advanceLow] at h
      split at h <;> try cases h
      split at h <;> cases h
      · exact .inr ⟨rfl, _, rfl⟩
      · exact .inl (.goto _ _ _)
  case deepSleepArg =>
    have hop : op = .sleep := by cases op <;> simp_all [Op.hasPhase]
    subst hop
    cases h
    exact .inl ⟨.sleeping, s.dp, .done, 0, rfl, .inr (.inr (.inr ⟨rfl, rfl, rfl, rfl, rfl⟩))⟩
  case refreshDelay => cases h; exact .inl (.goto _ _ _)
  case startCmd => cases h; exact .inl (.goto _ _ _)
  case powerOffCmd => cases h; exact .inl (.goto _ _ _)
  all_goals cases h; exact .inl (.goto s.dp _ _)

end Sys2Proof.Machine
end

section
/-! SUPPORT. What a step does as a whole: the operation goes on or ends, and TR grows by the element of its position; and what
a configuration that the spec allows demands. -/

namespace Sys2Proof.Machine

open Host

variable {op : Op} {ph : Phase} {k : Nat} {s t : State} {a : Attempt}

/-! ### The operation goes on, or ends -/

/-- A step after which the operation is still in progress. -/
structure GoesOn (op : Op) (ph : Phase) (k : Nat) (s t : State) : Prop where
  run : t.run = true
  status : t.status = s.status
  opDone : t.opDone = false
  seq : ∃ ph' k', t.seq = .pos op ph' k' ∧ LsMove op ph k ph' k' s.ls t.ls

/-- A step that ends the operation, completed or by an error (41_protocol_driver.md R141, 60_exceptions.md R232). -/
structure Ends (s t : State) : Prop where
  run : t.run = false
  seq : t.seq = .idle
  dp : t.dp = Datapath.empty
  opDone : t.opDone = true
  ls : t.ls = s.ls

/-- The end of an operation writes STATUS, not LS. -/
theorem Ends.finish {u : State} (hu : u.ls = s.ls) (st : Status) : Ends s (u.finish st) := ⟨rfl, rfl, rfl, rfl, hu⟩

/-- A step of an operation in progress goes on with it or ends it. -/
theorem RunningStep.goesOn_or_ends (h : RunningStep op ph k s t) (hp : op.hasPhase ph = true) (hs : s.seq = .pos op ph k)
    (hr : s.run = true) (hd : s.opDone = false) : GoesOn op ph k s t ∨ Ends s t := by
  cases h with
  | control hc h =>
    cases h with
    | heldOff => exact .inl ⟨hr, rfl, hd, ph, k, hs, .inl rfl⟩
    | initChecked _ hop => exact .inl ⟨hr, rfl, hd, _, _, by rw [hop]; rfl, .inl rfl⟩
    | clearChecked _ hop => exact .inl ⟨hr, rfl, hd, _, _, by rw [hop]; rfl, .inl rfl⟩
    | displayStateChecked hop => exact .inl ⟨hr, rfl, hd, _, _, by rw [hop]; rfl, .inl rfl⟩
    | displayLengthChecked _ hop => exact .inl ⟨hr, rfl, hd, _, _, by rw [hop]; rfl, .inl rfl⟩
    | sleepChecked _ hop => exact .inl ⟨hr, rfl, hd, _, _, by rw [hop]; rfl, .inl rfl⟩
    | refuse e _ => exact .inr (.finish rfl e)
    | complete _ _ => exact .inr (.finish rfl .ok)
    | pixel _ _ _ _ _ hop _ _ _ _ hpx =>
      obtain ⟨d, ph', k', m, rfl, -⟩ := pixelStep_frame hpx
      exact .inl ⟨hr, rfl, hd, ph', k', by rw [hop], .inl rfl⟩
  | moved i s0 a d hc hf hs0 ha hok hadv =>
    have same := (attemptOf_spec ha).1
    subst hs0
    rcases advancePhase_movedOn hc hp hadv with ⟨ls, d', ph', k', rfl, hls⟩ | ⟨-, d', rfl⟩
    · exact .inl ⟨same.run.trans hr, same.status, same.opDone.trans hd, ph', k', rfl, same.ls ▸ hls⟩
    · exact .inr (.finish (s := s) (u := a.st.setDp d') same.ls .timeout)
  | faulted i s0 a d hc hf hs0 ha hok hend =>
    subst hs0 hend
    exact .inr (.finish (s := s) (attemptOf_spec ha).1.ls .transportFault)

/-- A step while an operation runs, the block out of reset, goes on with it or ends it. -/
theorem step_goesOn_or_ends (hrst : s.port.rstN = true) (hr : s.run = true) (h : step s = .next t) :
    ∃ op ph k, s.seq = .pos op ph k ∧ op.hasPhase ph = true ∧ (GoesOn op ph k s t ∨ Ends s t) := by
  rcases step_cases hrst h with ⟨hr', -⟩ | ⟨-, op, ph, k, hs, hp, hstep⟩
  · simp [hr] at hr'
  · refine ⟨op, ph, k, hs, hp, ?_⟩
    rcases hstep.goesOn_or_ends hp hs hr rfl with ⟨h1, h2, h3, h4⟩ | ⟨h1, h2, h3, h4, h5⟩
    · exact .inl ⟨h1, h2, h3, h4⟩
    · exact .inr ⟨h1, h2, h3, h4, h5⟩

/-! ### The element that a step appends to TR -/

/-- The elements that the primitive of a position can append. -/
inductive EventAt (c : Config) (op : Op) : Phase → Event → Prop where
  | line (level : Level) (mark : Mark) : EventAt c op .pulse (.setLine .rst level mark)
  | delay (ph : Phase) (ms : Nat) (hph : ph ≠ .stream) : EventAt c op ph (.delay ms)
  | sample (x : Sample) : EventAt c op .poll (.readBusy x)
  | initCmd (st : InitStep) (hst : st ∈ c.initSeq) (mark : TxMark) : EventAt c op .initCmd (.tx .command st.cmd mark)
  | command (ph : Phase) (hph : ph ≠ .initCmd ∧ ph ≠ .stream) (v : Byte) (hv : v ∈ operationCommands c.codes)
      (mark : TxMark) : EventAt c op ph (.tx .command v mark)
  | pixels (b : Byte) (hb : b ∈ [0x00#8, 0x03#8, 0x30#8, 0x33#8]) (hop : op ≠ .display → b = 0x33#8) (mark : TxMark) :
      EventAt c op .stream (.tx .data b mark)
  | data (ph : Phase) (hph : ph ≠ .stream) (v : Byte) (mark : TxMark) : EventAt c op ph (.tx .data v mark)

/-- A frame is one element of TR, however it went. -/
theorem transmitByte_tr (kind : Kind) (value : Byte) (s : State) :
    ∃ mark, (transmitByte kind value s).st.tr = s.tr ++ [.tx kind value mark] := by
  obtain ⟨-, -, ⟨-, h⟩ | ⟨-, stage, h⟩⟩ := transmitByte_spec kind value s
  · exact ⟨_, h⟩
  · exact ⟨_, h⟩

/-- The primitive of a position appends one element, of that position. -/
theorem PrimitiveAt.event (h : PrimitiveAt op s ph k a) : ∃ e, a.st.tr = s.tr ++ [e] ∧ EventAt s.cfg op ph e := by
  have sent {kind : Kind} {v : Byte} (hev : ∀ mark, EventAt s.cfg op ph (.tx kind v mark)) :
      ∃ e, (transmitByte kind v s).st.tr = s.tr ++ [e] ∧ EventAt s.cfg op ph e :=
    (transmitByte_tr kind v s).elim fun mark h => ⟨_, h, hev mark⟩
  cases h with
  | drive _ level _ => exact ⟨_, setLine_tr .rst level s, .line level _⟩
  | dwell _ ms _ => exact ⟨_, rfl, .delay _ ms (by simp)⟩
  | initCmd _ st hst => exact sent (.initCmd st hst)
  | initArg _ v => exact sent (.data _ (by simp) v)
  | startCmd => exact sent (.command _ (by simp) _ (by simp [operationCommands]))
  | stream _ b hb hop => exact sent (.pixels b hb hop)
  | refreshCmd => exact sent (.command _ (by simp) _ (by simp [operationCommands]))
  | refreshDelay => exact ⟨_, rfl, .delay _ _ (by simp)⟩
  | poll => exact ⟨_, readBusy_tr s, .sample _⟩
  | pollDelay => exact ⟨_, rfl, .delay _ _ (by simp)⟩
  | powerOffCmd => exact sent (.command _ (by simp) _ (by simp [operationCommands]))
  | deepSleepCmd => exact sent (.command _ (by simp) _ (by simp [operationCommands]))
  | deepSleepArg => exact sent (.data _ (by simp) _)

/-- A step of an operation in progress appends nothing at a control position and the element of the position elsewhere. -/
theorem RunningStep.trace (h : RunningStep op ph k s t) :
    (isControl ph = true ∧ t.tr = s.tr) ∨ ∃ e, t.tr = s.tr ++ [e] ∧ EventAt s.cfg op ph e := by
  cases h with
  | control hc h =>
    refine .inl ⟨hc, ?_⟩
    cases h
    case pixel hpx =>
      obtain ⟨d, ph', k', m, rfl, -⟩ := pixelStep_frame hpx
      rfl
    all_goals rfl
  | moved i s0 a d hc hf hs0 ha hok hadv =>
    subst hs0
    obtain ⟨e, htr, he⟩ := (primitiveAt_of_fetch hc hf ha).event
    refine .inr ⟨e, ?_, he⟩
    rcases advancePhase_cases hadv with ⟨_, _, _, rfl⟩ | ⟨-, _, rfl⟩ <;> exact htr
  | faulted i s0 a d hc hf hs0 ha hok hend =>
    subst hs0 hend
    exact .inr (primitiveAt_of_fetch hc hf ha).event

/-- A step out of block reset appends nothing to TR, or the element of the position that an operation is at. -/
theorem step_trace (hrst : s.port.rstN = true) (h : step s = .next t) :
    (t.tr = s.tr ∧ (s.run = true → ∃ op ph k, s.seq = .pos op ph k ∧ isControl ph = true)) ∨
      ∃ op ph k e, s.seq = .pos op ph k ∧ op.hasPhase ph = true ∧ t.tr = s.tr ++ [e] ∧ EventAt s.cfg op ph e := by
  rcases step_cases hrst h with ⟨hr, rfl | ⟨op, d, rfl⟩⟩ | ⟨-, op, ph, k, hs, hp, hstep⟩
  · exact .inl ⟨rfl, by simp [hr]⟩
  · exact .inl ⟨rfl, by simp [hr]⟩
  · rcases hstep.trace with ⟨hc, htr⟩ | ⟨e, htr, he⟩
    · exact .inl ⟨htr, fun _ => ⟨op, ph, k, hs, hc⟩⟩
    · exact .inr ⟨op, ph, k, e, hs, hp, htr, he⟩

/-- The element that a step appended is that of the position. -/
theorem eventAt_of_appended {e : Event} (hrst : s.port.rstN = true) (h : step s = .next t) (htr : t.tr = s.tr ++ [e]) :
    ∃ op ph k, s.seq = .pos op ph k ∧ op.hasPhase ph = true ∧ EventAt s.cfg op ph e := by
  rcases step_trace hrst h with ⟨h0, -⟩ | ⟨op, ph, k, e', hs, hp, h1, he⟩
  · simp [h0] at htr
  · obtain rfl : e' = e := by simpa [h1] using htr
    exact ⟨op, ph, k, hs, hp, he⟩

/-! ### A configuration that the spec allows -/

/-- What `configWf` demands, as far as the statements need it (30_encoding.md R91, R93, R97; 42_busy_wait.md R175). -/
structure WfConfig (c : Config) : Prop where
  onePowerOn : (c.initSeq.filter (·.cmd == c.codes.powerOn)).length = 1
  wait : ∀ st ∈ c.initSeq, st.wait = (st.cmd == c.codes.powerOn)
  powerOnArgs : ∀ st ∈ c.initSeq, st.cmd = c.codes.powerOn → st.args = []
  initCommand : ∀ st ∈ c.initSeq, st.cmd ∈ initCommands c.codes
  notOperation : ∀ st ∈ c.initSeq, st.cmd ∉ operationCommands c.codes
  initSent : ∀ st ∈ c.initSeq, st.cmd ∉ neverSent c.codes
  operationSent : ∀ v ∈ operationCommands c.codes, v ∉ neverSent c.codes
  polls : c.busyTimeoutPolls ≠ some 0

theorem wfConfig_of_configWf {c : Config} (h : configWf c = true) : WfConfig c := by
  simp only [configWf, Bool.and_eq_true, List.all_eq_true, decide_eq_true_eq, beq_iff_eq, Bool.or_eq_true, bne_iff_ne,
    List.mem_append, List.mem_map] at h
  obtain ⟨⟨⟨⟨⟨⟨⟨⟨⟨⟨⟨-, hone⟩, hwait⟩, -⟩, hargs⟩, hcmd⟩, hop⟩, hnever⟩, -⟩, -⟩, -⟩, hpolls⟩ := h
  exact {
    onePowerOn := hone
    wait := hwait
    powerOnArgs := fun st hst he => (hargs st hst).resolve_left fun hne => hne he
    initCommand := hcmd
    notOperation := hop
    initSent := fun st hst => hnever _ (.inl ⟨st, hst, rfl⟩)
    operationSent := fun v hv => hnever _ (.inr hv)
    polls := hpolls }

end Sys2Proof.Machine
end

section
/-! SUPPORT. The rules of the whole machine that one step shows: what it writes, appends and sends. -/

open Sys2Proof Sys2Proof.Machine

/-- Settles O50, by what a step appends. -/
theorem traceOnlyGrows : Obligations.TraceOnlyGrows := by
  intro s t hrst h
  rcases step_trace hrst h with ⟨htr, -⟩ | ⟨_, _, _, e, -, -, htr, -⟩
  · exact .inl htr
  · exact .inr ⟨e, htr⟩

/-- Settles O51: an idle step does nothing, or accepts a request. -/
theorem idleBlockDrivesNothing : Obligations.IdleBlockDrivesNothing := by
  rintro s t ⟨hrst, hr⟩ h
  rcases step_cases hrst h with ⟨-, rfl | ⟨op, d, rfl⟩⟩ | ⟨hr', -⟩
  · exact ⟨rfl, rfl, rfl, rfl, rfl, rfl, rfl⟩
  · exact ⟨rfl, rfl, rfl, rfl, rfl, rfl, rfl⟩
  · simp [hr] at hr'

/-- Settles O52: an idle step and the end of an operation keep LS, and a move writes it as `LsMove` says. -/
theorem lifecycleIsWrittenOnlyWhereStated : Obligations.LifecycleIsWrittenOnlyWhereStated := by
  intro s t hrst h
  cases hr : s.run with
  | false => exact .inl (idleBlockDrivesNothing s t ⟨hrst, hr⟩ h).2.2.2.2.1
  | true =>
    obtain ⟨op, ph, k, hs, -, hgo | hend⟩ := step_goesOn_or_ends hrst hr h
    · obtain ⟨ph', k', ht, hls | ⟨hop, rfl, hk, hls⟩ | ⟨rfl, -, rfl, rfl, hls⟩ | ⟨rfl, rfl, rfl, rfl, hls⟩⟩ := hgo.seq
      · exact .inl hls
      · exact .inr (.inl ⟨op, k, hop, hs, hk, hls⟩)
      · exact .inr (.inr (.inl ⟨ph, k, hs, ht, hls⟩))
      · exact .inr (.inr (.inr ⟨k, hs, ht, hls⟩))
    · exact .inl hend.ls

/-- Settles O53: of the moves that write LS, the invariant leaves only the pulse of `Reset` in Sleeping. -/
theorem onlyResetLeavesSleeping : Obligations.OnlyResetLeavesSleeping := by
  intro s t hinv hrst hsleep h
  cases hr : s.run with
  | false => exact .inl ((idleBlockDrivesNothing s t ⟨hrst, hr⟩ h).2.2.2.2.1.trans hsleep)
  | true =>
    obtain ⟨op, ph, k, hs, -, hgo | hend⟩ := step_goesOn_or_ends hrst hr h
    · have hseq := hinv.seq
      simp only [SeqInv, hs, hsleep] at hseq
      obtain ⟨-, -, hlsAt, hregs⟩ := hseq
      obtain ⟨ph', k', ht, hls | ⟨hop | hop, rfl, hk, hls⟩ | ⟨rfl, hph, -, -, -⟩ | ⟨rfl, rfl, -, -, hls⟩⟩ := hgo.seq
      · exact .inl (hls.trans hsleep)
      · have hk6 : k < 6 := hregs
        obtain rfl : k = 5 := by omega
        exact .inr ⟨hls, hop ▸ hs⟩
      · subst hop
        exact absurd rfl hlsAt
      · cases ph <;> simp_all [lsAt]
      · exact .inl hls
    · exact .inl (hend.ls.trans hsleep)

/-- Settles O54: a step that goes on keeps STATUS and lowers `op_done`, one that ends the operation raises it. -/
theorem statusIsWrittenOnlyAtCompletion : Obligations.StatusIsWrittenOnlyAtCompletion := by
  intro s t hrst h
  cases hr : s.run with
  | false =>
    rcases step_cases hrst h with ⟨-, rfl | ⟨op, d, rfl⟩⟩ | ⟨hr', -⟩
    · simp
    · simp
    · simp [hr] at hr'
  | true =>
    obtain ⟨op, ph, k, hs, -, hgo | hend⟩ := step_goesOn_or_ends hrst hr h
    · simp [hgo.status, hgo.opDone, hgo.run]
    · simp [hend.seq, hend.opDone, hend.run]

/-- Settles O55: a step that ends an operation keeps LS. -/
theorem noErrorWritesLifecycle : Obligations.NoErrorWritesLifecycle := by
  intro s t hrst hr h hrun _
  obtain ⟨op, ph, k, -, -, hgo | hend⟩ := step_goesOn_or_ends hrst hr h
  · simp [hgo.run] at hrun
  · exact hend.ls

/-- Settles O57, by the element of the position, and the rows of `configWf`. -/
theorem onlyListedCommandsAreSent : Obligations.OnlyListedCommandsAreSent := by
  refine ⟨fun s t c mark hrst h htr => ?_, fun c hwf st hst hcmd => ?_⟩
  · obtain ⟨op, ph, k, hs, -, he⟩ := eventAt_of_appended hrst h htr
    cases he with
    | initCmd st hst =>
      refine ⟨.inl (List.mem_map_of_mem hst), fun hwf => ?_⟩
      have wf := wfConfig_of_configWf hwf
      exact ⟨wf.initSent st hst, fun _ _ => wf.initCommand st hst⟩
    | command _ hph _ hv =>
      refine ⟨.inr hv, fun hwf => ⟨(wfConfig_of_configWf hwf).operationSent c hv, fun j hj => ?_⟩⟩
      rw [hs] at hj
      cases hj
      exact absurd rfl hph.1
  · have wf := wfConfig_of_configWf hwf
    have hne := wf.notOperation st hst
    simp only [operationCommands, List.mem_cons, List.not_mem_nil, or_false, not_or] at hne hcmd
    obtain ⟨-, hrefresh, hoff, -⟩ := hne
    rcases hcmd with hon | h | h
    · exact wf.powerOnArgs st hst hon
    · exact absurd h hoff
    · exact absurd h hrefresh

/-- Settles O58, by the element of a position of the wire frame. -/
theorem wireFrameHoldsPixelCodes : Obligations.WireFrameHoldsPixelCodes := by
  intro s t op k hrst hr hs h
  rcases step_trace hrst h with ⟨-, hctl⟩ | ⟨op', ph, k', e, hs', -, htr, he⟩
  · obtain ⟨op', ph, k', hs', hc⟩ := hctl hr
    cases hs.symm.trans hs'
    simp [isControl] at hc
  · cases hs.symm.trans hs'
    cases he with
    | pixels b hb hop mark => exact ⟨b, mark, htr, hb, fun hclear => hop (by simp [hclear])⟩
    | delay _ _ hph => exact absurd rfl hph
    | command _ hph => exact absurd rfl hph.2
    | data _ hph => exact absurd rfl hph

/-- Settles O59: a sample is the element of a poll, and four operations have one. -/
theorem busyIsReadOnlyInWaits : Obligations.BusyIsReadOnlyInWaits := by
  intro s t sample hrst h htr
  obtain ⟨op, ph, k, hs, hp, he⟩ := eventAt_of_appended hrst h htr
  cases he
  refine ⟨op, k, hs, ?_⟩
  cases op <;> simp_all [Op.hasPhase]

end

section
/-! SUPPORT. The invariant: what it lets a position read, and that every kind of step keeps it. -/

namespace Sys2Proof.Machine

open Host

variable {op : Op} {ph : Phase} {k : Nat} {s t u : State} {level : Level}

/-! ### Building the invariant -/

/-- The invariant of a state whose memories are those of a state that meets it. -/
theorem inv_of_seq (h : Inv s) (hseq : SeqInv t) (hpbb : t.pbb = s.pbb) (himg : t.img = s.img) : Inv t :=
  ⟨hseq, hpbb ▸ h.pbb, himg ▸ h.img⟩

/-- No operation runs, and no register holds a value. -/
theorem seqInv_idle (hs : s.seq = .idle) (hr : s.run = false) (hd : s.dp = Datapath.empty) : SeqInv s := by
  simp [SeqInv, hs, hr, hd]

/-- An operation at one of its positions. -/
theorem seqInv_pos (hs : s.seq = .pos op ph k) (hr : s.run = true) (hp : op.hasPhase ph = true) (hls : lsAt op ph k s.ls)
    (hregs : regsAt s op ph k) : SeqInv s := by
  simp only [SeqInv, hs]
  exact ⟨hr, hp, hls, hregs⟩

/-- What the invariant says of an operation at a position. -/
theorem seqInv_at_pos (h : SeqInv s) (hs : s.seq = .pos op ph k) :
    s.run = true ∧ op.hasPhase ph = true ∧ lsAt op ph k s.ls ∧ regsAt s op ph k := by
  simpa only [SeqInv, hs] using h

/-- An operation runs at a position. -/
theorem seqInv_pos_of_run (h : SeqInv s) (hr : s.run = true) : ∃ op ph k, s.seq = .pos op ph k := by
  cases hs : s.seq with
  | idle => simp [SeqInv, hs, hr] at h
  | pos op ph k => exact ⟨op, ph, k, rfl⟩

/-- The registers of a position, in a state that agrees on what they are compared with. -/
theorem regsAt_congr (h : regsAt s op ph k) (hd : t.dp = s.dp) (hc : t.cfg = s.cfg) (hm : t.pbb = s.pbb) :
    regsAt t op ph k := by
  unfold regsAt at h ⊢
  rwa [hd, hc, hm]

/-- The phases between the pulse or the check of an operation and its completion. -/
def isBody : Phase → Bool
  | .check => false
  | .pulse => false
  | .pixel => false
  | .done => false
  | _ => true

/-- LS between the pulse or the check of an operation and its completion (41_protocol_driver.md R139). -/
theorem lsAt_body {ls : Lifecycle} (hb : isBody ph = true) :
    lsAt op ph k ls ↔ (op = .init → ls = .unpowered) ∧ (op = .clear ∨ op = .display ∨ op = .sleep → ls = .ready) := by
  cases op <;> cases ph <;> simp [isBody] at hb <;> simp [lsAt]

/-! ### What a position reads -/

/-- INV holds the complement of the byte of `PBB` that BI names. -/
def Loaded (s : State) : Prop := ∀ bi, s.dp.bi = some bi → s.dp.inv = some (~~~(pbbByte s.pbb bi))

/-- The current step of `INIT_SEQ`, from SI. -/
theorem currentInitStep_eq {si : Nat} {st : InitStep} (hsi : s.dp.si = some si) (hst : s.cfg.initSeq[si]? = some st) :
    currentInitStep s = .ok st := by
  simp [currentInitStep, hsi, hst, readReg]

/-- A position of the wire frame of `Display` reads a wire byte, with INV loaded. -/
theorem displayPair_of_regs {bi pp : Nat} (hbi : s.dp.bi = some bi) (hpp : s.dp.pp = some pp) (hlt : bi < bufSz)
    (hinv : 0 < pp → s.dp.inv = some (~~~(pbbByte s.pbb bi))) :
    ∃ i, displayPair s = .ok (i, loadInv (pbbByte s.pbb bi) s) ∧
      decodeWire (wireByte (~~~(pbbByte s.pbb bi)) pp) = .ok i := by
  obtain ⟨i, hi, -⟩ := decodeWire_wireByte (~~~(pbbByte s.pbb bi)) pp
  refine ⟨i, ?_, hi⟩
  cases pp with
  | zero =>
    simp only [displayPair, hbi, hpp, readReg, loadWhenTaken, pbbExists, hlt, decide_true, loadInv_dp, hi]
  | succ pp =>
    have hld := hinv (Nat.succ_pos pp)
    have hsame : loadInv (pbbByte s.pbb bi) s = s := by rw [loadInv, ← hld]; rfl
    simp only [displayPair, hbi, hpp, readReg, loadWhenTaken, hld, hi, hsame]

/-- At a position whose registers hold their values there is a primitive to perform; reading it loads INV at most. -/
theorem fetchPhase_of_regs (hc : isControl ph = false) (hregs : regsAt s op ph k) :
    ∃ i d a, fetchPhase op ph k s = .ok (i, s.setDp d) ∧ attemptOf i (s.setDp d) = some a ∧
      regsAt (s.setDp d) op ph k ∧ (ph = .stream → op = .display → Loaded (s.setDp d)) := by
  have plain {i : Instr} (hne : ph = .stream → op ≠ .display) (hf : fetchPhase op ph k s = .ok (i, s)) :
      ∃ i d a, fetchPhase op ph k s = .ok (i, s.setDp d) ∧ attemptOf i (s.setDp d) = some a ∧
        regsAt (s.setDp d) op ph k ∧ (ph = .stream → op = .display → Loaded (s.setDp d)) := by
    obtain ⟨⟨a, ha⟩, -⟩ := fetchPhase_attempt hc hf
    exact ⟨i, s.dp, a, hf, ha, hregs, fun h1 h2 => absurd h2 (hne h1)⟩
  cases ph <;> simp only [isControl, Bool.true_eq_false] at hc
  case pulse =>
    have hk : k < 6 := hregs
    have hpulse : ∃ i, pulsePrimitive k = .ok i := by interval_cases k <;> exact ⟨_, rfl⟩
    obtain ⟨i, hi⟩ := hpulse
    exact plain (by simp) (i := i) (by rw [fetchPhase, hi]; rfl)
  case initCmd =>
    obtain ⟨hsi, hk⟩ := hregs
    have hst := currentInitStep_eq hsi (List.getElem?_eq_getElem hk)
    exact plain (by simp) (i := .frameCommand s.cfg.initSeq[k].cmd) (by rw [fetchPhase, initCommand, hst]; rfl)
  case initArg =>
    obtain ⟨si, st, hsi, hst, hai, hk⟩ := hregs
    have harg : st.args[k]? = some st.args[k] := List.getElem?_eq_getElem hk
    refine plain (by simp) (i := .frameData st.args[k]) ?_
    rw [fetchPhase, initArgument, currentInitStep_eq hsi hst, hai]
    simp only [readReg, harg, inState]
  case stream =>
    by_cases hop : op = .display
    · obtain ⟨bi, pp, hbi, hpp, hlt, hpp4, hk, hinv⟩ := hregs
      obtain ⟨i, hf, hdec⟩ := displayPair_of_regs hbi hpp hlt (hinv hop)
      refine ⟨i, { s.dp with inv := some (~~~(pbbByte s.pbb bi)) }, _, ?_, attemptOf_decodeWire hdec _,
        ⟨bi, pp, hbi, hpp, hlt, hpp4, hk, fun _ _ => rfl⟩, ?_⟩
      · rw [fetchPhase, if_pos hop, hf]
        rfl
      · intro _ _ bi' hbi'
        obtain rfl : bi = bi' := Option.some.inj (hbi.symm.trans hbi')
        rfl
    · exact plain (fun _ => hop) (i := .wire33) (by rw [fetchPhase, if_neg hop])
  all_goals exact plain (by simp) rfl

/-! ### The moves keep the sequencer's invariant -/

/-- A move within the body of an operation. -/
theorem seqInv_body {ph' : Phase} {k' : Nat} {d : Datapath} (hb : isBody ph = true) (hb' : isBody ph' = true)
    (hr : s.run = true) (hls : lsAt op ph k s.ls) (hp : op.hasPhase ph' = true)
    (hregs : regsAt ((s.setDp d).goto op ph' k') op ph' k') : SeqInv ((s.setDp d).goto op ph' k') :=
  seqInv_pos rfl hr hp ((lsAt_body hb').mpr ((lsAt_body hb).mp hls)) hregs

/-- The next step of `INIT_SEQ`, or the completion of `Init`. -/
theorem enterInitStep_seqInv (si : Nat) (hr : s.run = true) (hls : s.ls = .unpowered) : SeqInv (enterInitStep si s) := by
  unfold enterInitStep
  split_ifs with hsi
  · exact seqInv_pos rfl hr rfl hls ⟨rfl, hsi⟩
  · exact seqInv_pos rfl hr rfl rfl rfl

/-- After the frames of a step of `INIT_SEQ`. -/
theorem afterInitFrames_seqInv (st : InitStep) {si : Nat} (hr : s.run = true) (hls : s.ls = .unpowered)
    (hsi : s.dp.si = some si) (hlt : si < s.cfg.initSeq.length) : SeqInv (afterInitFrames st si s) := by
  unfold afterInitFrames
  cases st.wait with
  | true => exact seqInv_pos rfl hr rfl hls ⟨rfl, fun _ => ⟨si, hsi, hlt⟩⟩
  | false => exact enterInitStep_seqInv (si + 1) hr hls

/-- After a primitive of the pulse. -/
theorem advancePulse_seqInv (hp : op.hasPhase .pulse = true) (hr : s.run = true) (hls : lsAt op .pulse k s.ls) :
    SeqInv (advancePulse op k s) := by
  unfold advancePulse
  split_ifs with hk
  · refine seqInv_pos rfl hr hp ?_ hk
    cases op <;> exact hls
  · unfold afterPulse
    split_ifs with hop
    · exact enterInitStep_seqInv 0 hr rfl
    · have hreset : op = .reset := by cases op <;> simp_all [Op.hasPhase]
      subst hreset
      exact seqInv_pos rfl hr rfl rfl rfl

/-- After a data byte of the wire frame. -/
theorem advanceStream_seqInv (hp : op.hasPhase .stream = true) (hr : s.run = true) (hls : lsAt op .stream k s.ls)
    (hregs : regsAt s op .stream k) (hload : op = .display → Loaded s) :
    ∃ t, advanceStream op k s = .ok t ∧ SeqInv t := by
  obtain ⟨bi, pp, hbi, hpp, hlt, hpp4, hk, -⟩ := hregs
  simp only [advanceStream, hbi, hpp, readReg]
  split_ifs with h3 hlast
  · refine ⟨_, rfl, seqInv_body (ph := .stream) rfl rfl hr hls hp ?_⟩
    exact ⟨bi, pp + 1, rfl, rfl, hlt, by omega, by omega, fun hop _ => hload hop bi hbi⟩
  · refine ⟨_, rfl, seqInv_body (ph := .stream) rfl rfl hr hls hp ?_⟩
    exact ⟨bi + 1, 0, rfl, rfl, hlast, by omega, by omega, fun _ h => absurd h (Nat.lt_irrefl 0)⟩
  · have hrefresh : op.hasPhase .refreshCmd = true := by cases op <;> simp_all [Op.hasPhase]
    exact ⟨_, rfl, seqInv_body (d := s.dp) (ph := .stream) rfl rfl hr hls hrefresh rfl⟩

/-- After a sample of `BUSY`. -/
theorem advancePoll_seqInv (hp : op.hasPhase .poll = true) (hr : s.run = true) (hls : lsAt op .poll k s.ls)
    (hregs : regsAt s op .poll k) : ∃ t, advancePoll op level s = .ok t ∧ SeqInv t := by
  obtain ⟨hpc, hinit⟩ := hregs
  have hbody := (lsAt_body (op := op) (ph := .poll) rfl).mp hls
  cases level with
  | high =>
    cases op
    case reset => exact absurd hp (by decide)
    case convert => exact absurd hp (by decide)
    case init =>
      obtain ⟨si, hsi, -⟩ := hinit rfl
      have hsi' : (endWait s).dp.si = some si := hsi
      simp only [advancePoll, afterWait, hsi', readReg]
      exact ⟨_, rfl, enterInitStep_seqInv (s := endWait s) (si + 1) hr (hbody.1 rfl)⟩
    all_goals exact ⟨_, rfl, seqInv_pos rfl hr rfl (hbody.2 (by simp)) rfl⟩
  | low =>
    simp only [advancePoll, advanceLow, hpc, readReg]
    cases pollsExhausted s.cfg (k + 1) with
    | true => exact ⟨_, rfl, seqInv_idle rfl rfl rfl⟩
    | false =>
      have hdelay : op.hasPhase .pollDelay = true := by cases op <;> simp_all [Op.hasPhase]
      exact ⟨_, rfl, seqInv_body (ph := .poll) rfl rfl hr hls hdelay ⟨rfl, hinit⟩⟩

/-- The move after a primitive that did not fault finds what it reads, and keeps the invariant of the sequencer. -/
theorem advancePhase_seqInv (hc : isControl ph = false) (hp : op.hasPhase ph = true) (hr : s.run = true)
    (hls : lsAt op ph k s.ls) (hregs : regsAt s op ph k) (hload : ph = .stream → op = .display → Loaded s) :
    ∃ t, advancePhase op ph k level s = .ok t ∧ SeqInv t := by
  cases ph <;> simp only [isControl, Bool.true_eq_false] at hc <;> simp only [advancePhase]
  case pulse => exact ⟨_, rfl, advancePulse_seqInv hp hr hls⟩
  case initCmd =>
    have hop : op = .init := by cases op <;> simp_all [Op.hasPhase]
    subst hop
    obtain ⟨hsi, hk⟩ := hregs
    have hst := List.getElem?_eq_getElem hk
    simp only [advanceInitCmd, hsi, currentInitStep_eq hsi hst, readReg]
    split_ifs with hargs
    · exact ⟨_, rfl, seqInv_pos rfl hr rfl hls ⟨k, _, rfl, hst, rfl, hargs⟩⟩
    · exact ⟨_, rfl, afterInitFrames_seqInv _ hr hls hsi hk⟩
  case initArg =>
    have hop : op = .init := by cases op <;> simp_all [Op.hasPhase]
    subst hop
    obtain ⟨si, st, hsi, hst, hai, hk⟩ := hregs
    simp only [advanceInitArg, hsi, currentInitStep_eq hsi hst, hai, readReg]
    split_ifs with hargs
    · exact ⟨_, rfl, seqInv_pos rfl hr rfl hls ⟨si, st, rfl, hst, rfl, hargs⟩⟩
    · exact ⟨_, rfl, afterInitFrames_seqInv _ hr hls hsi (List.getElem?_eq_some_iff.mp hst).1⟩
  case stream => exact advanceStream_seqInv hp hr hls hregs (hload rfl)
  case poll => exact advancePoll_seqInv hp hr hls hregs
  case pollDelay =>
    have hpoll : op.hasPhase .poll = true := by cases op <;> simp_all [Op.hasPhase]
    exact ⟨_, rfl, seqInv_body (d := s.dp) (ph := .pollDelay) rfl rfl hr hls hpoll hregs⟩
  case startCmd =>
    have hstream : op.hasPhase .stream = true := by cases op <;> simp_all [Op.hasPhase]
    refine ⟨_, rfl, seqInv_body (ph := .startCmd) rfl rfl hr hls hstream ?_⟩
    exact ⟨0, 0, rfl, rfl, by decide, by decide, rfl, fun _ h => absurd h (Nat.lt_irrefl 0)⟩
  case refreshCmd =>
    have hdelay : op.hasPhase .refreshDelay = true := by cases op <;> simp_all [Op.hasPhase]
    exact ⟨_, rfl, seqInv_body (d := s.dp) (ph := .refreshCmd) rfl rfl hr hls hdelay rfl⟩
  case refreshDelay =>
    have hpoll : op.hasPhase .poll = true ∧ op ≠ .init := by cases op <;> simp_all [Op.hasPhase]
    exact ⟨_, rfl, seqInv_body (ph := .refreshDelay) rfl rfl hr hls hpoll.1 ⟨rfl, fun h => absurd h hpoll.2⟩⟩
  case powerOffCmd =>
    have hpoll : op.hasPhase .poll = true ∧ op ≠ .init := by cases op <;> simp_all [Op.hasPhase]
    exact ⟨_, rfl, seqInv_body (ph := .powerOffCmd) rfl rfl hr hls hpoll.1 ⟨rfl, fun h => absurd h hpoll.2⟩⟩
  case deepSleepCmd =>
    have harg : op.hasPhase .deepSleepArg = true := by cases op <;> simp_all [Op.hasPhase]
    exact ⟨_, rfl, seqInv_body (d := s.dp) (ph := .deepSleepCmd) rfl rfl hr hls harg rfl⟩
  case deepSleepArg =>
    have hop : op = .sleep := by cases op <;> simp_all [Op.hasPhase]
    subst hop
    exact ⟨_, rfl, seqInv_pos rfl hr rfl rfl rfl⟩

/-! ### The operation's own steps keep the invariant -/

/-- After a pixel of the panel the loops of `Convert` stand at a pixel of the panel, or `Convert` completes. -/
theorem nextPixel_seqInv {i j : Nat} (acc : Byte) (hr : s.run = true) (hj : j < panelH) (hcj : s.dp.cj = some j) :
    SeqInv (nextPixel i j acc s) := by
  unfold nextPixel
  split_ifs with hrow hcol
  · exact seqInv_pos rfl hr rfl trivial ⟨i + 1, j, acc, rfl, hcj, rfl, hrow, hj, rfl⟩
  · exact seqInv_pos rfl hr rfl trivial ⟨0, j + 1, 0#8, rfl, rfl, rfl, by decide, hcol, rfl⟩
  · exact seqInv_pos rfl hr rfl trivial rfl

/-- A byte of the panel has an address of `PBB`. -/
theorem pbbAddr_lt {i j : Nat} (hi : i < panelW) (hj : j < panelH) : pbbAddr i j < bufSz := by
  simp only [pbbAddr, bufSz, widthBytes, heightBytes, panelW, panelH] at hi hj ⊢
  omega

/-- Every step of an operation's own instruction keeps the invariant. -/
theorem ControlStep.keeps_inv (h : ControlStep op s t) (hinv : Inv s) (hr : s.run = true) : Inv t := by
  cases h with
  | heldOff => exact hinv
  | initChecked j _ hs hl => exact inv_of_seq hinv (seqInv_pos rfl hr rfl hl (by decide : 0 < 6)) rfl rfl
  | clearChecked j _ hs hl => exact inv_of_seq hinv (seqInv_pos rfl hr rfl hl rfl) rfl rfl
  | displayStateChecked _ hs hl => exact inv_of_seq hinv (seqInv_pos rfl hr rfl hl (.inr ⟨rfl, rfl⟩)) rfl rfl
  | displayLengthChecked j _ hs hl =>
    obtain ⟨-, -, hls, -⟩ := seqInv_at_pos hinv.seq hs
    exact inv_of_seq hinv (seqInv_pos rfl hr rfl hls rfl) rfl rfl
  | sleepChecked j _ hs hl => exact inv_of_seq hinv (seqInv_pos rfl hr rfl hl rfl) rfl rfl
  | refuse e _ => exact inv_of_seq hinv (seqInv_idle rfl rfl rfl) rfl rfl
  | complete j _ => exact inv_of_seq hinv (seqInv_idle rfl rfl rfl) rfl rfl
  | pixel i j k acc _ _ hs hi hj _ hpx =>
    obtain ⟨-, -, -, i', j', acc', hi', hj', -, hilt, hjlt, -⟩ := seqInv_at_pos hinv.seq hs
    obtain rfl : i = i' := Option.some.inj (hi.symm.trans hi')
    obtain rfl : j = j' := Option.some.inj (hj.symm.trans hj')
    rcases pixelStep_cases hpx with ⟨-, hlt, rfl⟩ | ⟨-, rfl⟩
    · obtain ⟨d, ph', k', e⟩ :=
        nextPixel_eq i j 0#8 (s.writePbb (pbbAddr i j) (accumulate acc (s.convertBit i j)))
      refine ⟨nextPixel_seqInv 0#8 hr hjlt hj, ?_, ?_⟩
      · rw [e]; exact writePbb_wf hinv.pbb _ hlt
      · rw [e]; exact hinv.img
    · obtain ⟨d, ph', k', e⟩ := nextPixel_eq i j (accumulate acc (s.convertBit i j)) s
      exact inv_of_seq hinv (nextPixel_seqInv _ hr hjlt hj) (by rw [e]; rfl) (by rw [e]; rfl)

/-- At a pixel of the panel `Convert` reads its registers and, at the 8th column, writes an address that exists. -/
theorem convertPixel_of_regs (hregs : regsAt s .convert .pixel k) : ∃ t, convertPixel s = .ok t := by
  obtain ⟨i, j, acc, hi, hj, ha, hilt, hjlt, -⟩ := hregs
  simp only [convertPixel, hi, hj, ha, readReg]
  by_cases h7 : i % 8 = 7
  · exact ⟨_, pixelStep_flush h7 (pbbAddr_lt hilt hjlt)⟩
  · exact ⟨_, pixelStep_add h7⟩

/-- At a control position the operation's instruction answers a next state. -/
theorem exec_instr_of_regs (hr : s.run = true) (hs : s.seq = .pos op ph k) (hregs : regsAt s op ph k) :
    ∃ t, exec op.instr s = .next t := by
  by_cases hop : op = .convert
  · subst hop
    by_cases hph : ph = .pixel
    · subst hph
      obtain ⟨t, ht⟩ := convertPixel_of_regs hregs
      exact ⟨t, by simp only [Op.instr, exec, execConvert, hr, hs, ht]⟩
    · refine ⟨operate .convert (fun _ => id) s, ?_⟩
      simp only [Op.instr, exec, execConvert, hr, hs]
      split <;> simp_all
  · cases op
    case convert => exact absurd rfl hop
    all_goals exact ⟨_, rfl⟩

/-! ### Acceptance -/

/-- An operation just accepted: `Convert` starts its loops as well (43_image_converter.md R186). -/
def accepted (op : Op) (s : State) : State := if op = .convert then beginConvert (accept op s) else accept op s

/-- While no operation runs each of the six is accepted. -/
theorem exec_instr_idle (op : Op) (hr : s.run = false) : exec op.instr s = .next (accepted op s) := by
  cases op <;> simp [Op.instr, exec, execReset, execInit, execClear, execDisplay, execSleep, execConvert, operate, hr,
    accepted]

/-- An operation just accepted stands at its first position, with the registers it reads. -/
theorem accepted_keeps_inv (op : Op) (hinv : Inv s) : Inv (accepted op s) := by
  cases op
  case reset => exact inv_of_seq hinv (seqInv_pos rfl rfl rfl trivial (by decide : 0 < 6)) rfl rfl
  case convert =>
    refine inv_of_seq hinv (seqInv_pos rfl rfl rfl trivial ?_) rfl rfl
    exact ⟨0, 0, 0#8, rfl, rfl, rfl, by decide, by decide, rfl⟩
  all_goals exact inv_of_seq hinv (seqInv_pos rfl rfl rfl trivial (.inl rfl)) rfl rfl

/-- An op_code names an operation or is reserved. -/
theorem decodeOpCode_cases (code : BitVec 3) :
    (∃ op : Op, decodeOpCode code = op.instr) ∨ decodeOpCode code = .reserved110 ∨ decodeOpCode code = .reserved111 := by
  have hmem := Laws.decodeOpCode_mem code
  simp only [Laws.opreqRows, List.mem_cons, List.not_mem_nil, or_false] at hmem
  rcases hmem with h | h | h | h | h | h | h | h
  · exact .inl ⟨.reset, h⟩
  · exact .inl ⟨.init, h⟩
  · exact .inl ⟨.clear, h⟩
  · exact .inl ⟨.display, h⟩
  · exact .inl ⟨.sleep, h⟩
  · exact .inl ⟨.convert, h⟩
  · exact .inr (.inl h)
  · exact .inr (.inr h)

/-- The step while no operation runs keeps the invariant. -/
theorem idleStep_keeps_inv (hinv : Inv s) (hr : s.run = false) : ∃ t, idleStep s = .next t ∧ Inv t := by
  unfold idleStep
  cases s.port.opValid with
  | false => exact ⟨s, rfl, hinv⟩
  | true =>
    rcases decodeOpCode_cases s.port.opCode with ⟨op, h⟩ | h | h
    · exact ⟨_, by rw [h]; exact exec_instr_idle op hr, accepted_keeps_inv op hinv⟩
    · exact ⟨s, by rw [h]; rfl, hinv⟩
    · exact ⟨s, by rw [h]; rfl, hinv⟩

/-! ### The step of an operation in progress -/

/-- The step at a control position is the meaning of the operation's instruction, which sets the position itself. -/
theorem runStep_control (hs : s.seq = .pos op ph k) (hp : op.hasPhase ph = true) (hc : isControl ph = true)
    (hx : exec op.instr s = .next t) : runStep s = .next t := by
  have hadv : advance (.pos op ph k) s.busy.level t = .ok t := by
    cases hrt : t.run with
    | false => simp only [advance, hrt]
    | true => cases ph <;> simp only [isControl, Bool.false_eq_true] at hc <;> simp only [advance, hrt, advancePhase]
  simp only [runStep, (fetch_pos hs hp).trans (fetchPhase_control hc), hx, hs, hadv, outcomeOf]

/-- The step of an operation in progress keeps the invariant. -/
theorem runStep_keeps_inv (hinv : Inv s) (hr : s.run = true) : ∃ t, runStep s = .next t ∧ Inv t := by
  obtain ⟨op, ph, k, hs⟩ := seqInv_pos_of_run hinv.seq hr
  obtain ⟨-, hp, hls, hregs⟩ := seqInv_at_pos hinv.seq hs
  cases hc : isControl ph with
  | true =>
    obtain ⟨t, ht⟩ := exec_instr_of_regs hr hs hregs
    exact ⟨t, runStep_control hs hp hc ht, (exec_control hr ht).keeps_inv hinv hr⟩
  | false =>
    obtain ⟨i, d, a, hf, ha, hregs', hload⟩ := fetchPhase_of_regs hc hregs
    have same := (attemptOf_spec ha).1
    rw [runStep_attempt hs ((fetch_pos hs hp).trans hf) ha hr]
    cases a.ok with
    | false => exact ⟨_, rfl, inv_of_seq hinv (seqInv_idle rfl rfl rfl) same.pbb same.img⟩
    | true =>
      have hload' : ph = .stream → op = .display → Loaded a.st := by
        intro h1 h2 bi hbi
        rw [same.pbb, same.dp]
        exact hload h1 h2 bi (same.dp ▸ hbi)
      obtain ⟨t, ht, hseq⟩ := advancePhase_seqInv (level := (s.setDp d).busy.level) hc hp (same.run.trans hr)
        (same.ls ▸ hls) (regsAt_congr hregs' same.dp same.cfg same.pbb) hload'
      refine ⟨t, by simp only [ht, outcomeOf, if_true], ?_⟩
      rcases advancePhase_cases ht with ⟨_, _, _, rfl⟩ | ⟨-, _, rfl⟩ <;> exact inv_of_seq hinv hseq same.pbb same.img

/-- Every step keeps the invariant, and from a state that meets it every step answers a next state. -/
theorem step_keeps_inv (hinv : Inv s) : ∃ t, step s = .next t ∧ Inv t := by
  have hclear : Inv s.clearDone := ⟨hinv.seq, hinv.pbb, hinv.img⟩
  cases hrst : s.port.rstN with
  | false => exact ⟨_, step_blockReset hrst, inv_of_seq hinv (seqInv_idle rfl rfl rfl) rfl rfl⟩
  | true =>
    cases hr : s.run with
    | false => rw [step_idle hrst hr]; exact idleStep_keeps_inv hclear hr
    | true => rw [step_running hrst hr]; exact runStep_keeps_inv hclear hr

end Sys2Proof.Machine
end

section
/-! SUPPORT. The statements about the invariant and the memories it speaks of. -/

open Sys2Proof Sys2Proof.Machine

/-- Settles O48: nothing runs and the memories are empty. -/
theorem resetMeetsTheInvariant : Obligations.ResetMeetsTheInvariant := ⟨seqInv_idle rfl rfl rfl, rfl, rfl⟩

/-- Settles O49, by the kinds of step: block reset, an idle step, a control position, a primitive and the move after it. -/
theorem stepKeepsTheInvariant : Obligations.StepKeepsTheInvariant := fun _ hinv => step_keeps_inv hinv

end

section
/-! SUPPORT. The transport primitives as instructions: a primitive that happens, one that is answered `fault`, and where a
frame stops. -/

namespace Sys2Proof.Machine

open Host

variable {s : State} {kind : Kind} {v : Byte} {i : Instr} {n : Nat}

/-- An instruction that is one frame, none of whose effects is answered `fault`. -/
theorem exec_frame (h : NextOk 4 s) (hi : attemptOf i s = some (transmitByte kind v s)) :
    exec i s = .next (afterFrame kind v s) := by
  rw [exec_of_attempt hi, transmitByte_ok h]
  rfl

/-- The first answer is `fault`. -/
theorem faultNext_of_head (h : s.faults.head? = some .fault) : s.faultNext = true := by
  simp [State.faultNext, h]

/-- What a frame leaves whose effect number `n` was answered `fault` (40_transport_primitives.md R117): the effects before it
have happened, those after it have not. -/
structure FrameFailed (kind : Kind) (v : Byte) (n : Nat) (s t : State) : Prop where
  same : SameControl s t
  busy : t.busy = s.busy
  tr : t.tr = s.tr ++ [.tx kind v (.failedAt (stageOf n))]
  faults : t.faults = s.faults.drop (n + 1)
  rst : t.lines.rst = s.lines.rst
  selecting : n = 0 → t.lines.cs = s.lines.cs ∧ (t.lines.dc = s.lines.dc ∨ t.lines.dc = .driven (kindLevel s.cfg kind))
  selected : 0 < n → t.lines.dc = .driven (kindLevel s.cfg kind)
  activating : n = 1 → t.lines.cs = s.lines.cs ∨ t.lines.cs = .driven s.cfg.csActiveLevel
  transferring : n = 2 → t.lines.cs = .driven s.cfg.csActiveLevel
  deactivating : n = 3 → t.lines.cs = .driven s.cfg.csActiveLevel ∨ t.lines.cs = .driven s.cfg.csActiveLevel.opposite

/-- The state after the first `m` effects of a frame, none of which fails. -/
def frameUpTo (kind : Kind) (s : State) : Nat → State
  | 0 => s
  | 1 => s.takeAnswer.driveLine .dc (kindLevel s.cfg kind)
  | 2 => (s.takeAnswer.driveLine .dc (kindLevel s.cfg kind)).takeAnswer.driveLine .cs s.cfg.csActiveLevel
  | 3 => ((s.takeAnswer.driveLine .dc (kindLevel s.cfg kind)).takeAnswer.driveLine .cs s.cfg.csActiveLevel).takeAnswer
  | _ => (((s.takeAnswer.driveLine .dc (kindLevel s.cfg kind)).takeAnswer.driveLine .cs
      s.cfg.csActiveLevel).takeAnswer).takeAnswer.driveLine .cs s.cfg.csActiveLevel.opposite

/-- The state after effect `m` of a frame failed: its drive may have reached the pin; a transfer drives nothing. -/
def frameFault (kind : Kind) (s : State) : Nat → State
  | 0 => s.takeAnswer.driveFailed .dc (kindLevel s.cfg kind)
  | 1 => (frameUpTo kind s 1).takeAnswer.driveFailed .cs s.cfg.csActiveLevel
  | 2 => (frameUpTo kind s 2).takeAnswer
  | _ => (frameUpTo kind s 3).takeAnswer.driveFailed .cs s.cfg.csActiveLevel.opposite

/-- Effect `m` of a frame begun in `s` (40_transport_primitives.md R112). -/
def frameStage (kind : Kind) (v : Byte) (s : State) : Nat → State → Attempt
  | 0 => frameEffect kind v .select (driveEffect .dc (kindLevel s.cfg kind))
  | 1 => frameEffect kind v .chipActive (driveEffect .cs s.cfg.csActiveLevel)
  | 2 => frameEffect kind v .transfer transferEffect
  | _ => frameEffect kind v .chipInactive (driveEffect .cs s.cfg.csActiveLevel.opposite)

/-- A frame is its four effects in order, and its element of TR. -/
theorem transmitByte_eq_stages (kind : Kind) (v : Byte) (s : State) :
    transmitByte kind v s =
      ((((frameStage kind v s 0 (frameUpTo kind s 0)).andThen (frameStage kind v s 1)).andThen
        (frameStage kind v s 2)).andThen (frameStage kind v s 3)).andThen
        fun s' => ⟨true, s'.record (.tx kind v .ok)⟩ := rfl

@[simp] theorem Attempt.andThen_ok (s : State) (f : State → Attempt) : (Attempt.mk true s).andThen f = f s := rfl

@[simp] theorem Attempt.andThen_fault (s : State) (f : State → Attempt) :
    (Attempt.mk false s).andThen f = ⟨false, s⟩ := rfl

/-- An effect of a frame happens, or the frame ends there. -/
theorem frameStage_eq {m : Nat} (hm : m < 4) :
    frameStage kind v s m (frameUpTo kind s m) =
      if (frameUpTo kind s m).faultNext then ⟨false, (frameFault kind s m).record (.tx kind v (.failedAt (stageOf m)))⟩
      else ⟨true, frameUpTo kind s (m + 1)⟩ := by
  cases hf : (frameUpTo kind s m).faultNext <;> interval_cases m <;>
    simp [frameStage, frameEffect, driveEffect, transferEffect, hf] <;> rfl

/-- The answer that effect `m` of a frame takes, where those before it did not fail. -/
theorem faultNext_frameUpTo {m : Nat} (hm : m < 4) : (frameUpTo kind s m).faultNext = (s.faults[m]? == some .fault) := by
  interval_cases m <;> simp [frameUpTo, State.faultNext, List.head?_eq_getElem?]

/-- A frame stops at the effect that is answered `fault`. -/
theorem transmitByte_fault_eq (kind : Kind) (v : Byte) (hn : n < 4) (hok : NextOk n s) (hf : s.faults[n]? = some .fault) :
    transmitByte kind v s = ⟨false, (frameFault kind s n).record (.tx kind v (.failedAt (stageOf n)))⟩ := by
  have fails : frameStage kind v s n (frameUpTo kind s n) =
      ⟨false, (frameFault kind s n).record (.tx kind v (.failedAt (stageOf n)))⟩ := by
    simp [frameStage_eq hn, faultNext_frameUpTo hn, hf]
  have happens {m : Nat} (hm : m < n) :
      frameStage kind v s m (frameUpTo kind s m) = ⟨true, frameUpTo kind s (m + 1)⟩ := by
    have hne : s.faults[m]? ≠ some .fault := fun hget =>
      absurd (hok .fault (List.mem_iff_getElem?.mpr ⟨m, by rw [List.getElem?_take_of_lt hm, hget]⟩)) (by decide)
    have hm4 : m < 4 := by omega
    simp [frameStage_eq hm4, faultNext_frameUpTo hm4, hne]
  rw [transmitByte_eq_stages]
  match n, hn with
  | 0, _ => simp only [fails, Attempt.andThen_fault]
  | 1, _ => simp only [happens (m := 0) (by decide), Attempt.andThen_ok, fails, Attempt.andThen_fault]
  | 2, _ =>
    simp only [happens (m := 0) (by decide), happens (m := 1) (by decide), Attempt.andThen_ok, fails,
      Attempt.andThen_fault]
  | 3, _ =>
    simp only [happens (m := 0) (by decide), happens (m := 1) (by decide), happens (m := 2) (by decide),
      Attempt.andThen_ok, fails, Attempt.andThen_fault]

/-- A failed effect of a frame takes its answer and appends nothing itself. -/
theorem frameFault_tr (kind : Kind) (s : State) (n : Nat) : (frameFault kind s n).tr = s.tr := by
  rcases n with _ | _ | _ | n <;> simp [frameFault, frameUpTo]

theorem frameFault_faults (kind : Kind) (s : State) (hn : n < 4) :
    (frameFault kind s n).faults = s.faults.drop (n + 1) := by
  interval_cases n <;> simp [frameFault, frameUpTo, ← List.drop_one]

/-- What a frame leaves where one of its effects fails. -/
theorem transmitByte_fault (kind : Kind) (v : Byte) (hn : n < 4) (hok : NextOk n s) (hf : s.faults[n]? = some .fault) :
    (transmitByte kind v s).ok = false ∧ FrameFailed kind v n s (transmitByte kind v s).st := by
  obtain ⟨hsame, hbusy, -⟩ := transmitByte_spec kind v s
  rw [transmitByte_fault_eq kind v hn hok hf] at hsame hbusy ⊢
  refine ⟨rfl, hsame, hbusy, ?_, frameFault_faults kind s hn, ?_, ?_, ?_, ?_, ?_, ?_⟩
  · rw [State.record_tr, frameFault_tr]
  all_goals
    interval_cases n <;>
      simp only [State.record_lines, frameFault, frameUpTo, State.driveFailed_lines, State.takeAnswer_lines,
        State.driveLine_lines] <;>
      (try split_ifs) <;> simp [Lines.drive]

/-- The data frames of a non-empty list leave the latches of a data frame. -/
theorem afterData_lines {bytes : List Byte} (h : bytes ≠ []) (d : Datapath) (s : State) :
    (afterData bytes d s).lines = frameLines s.cfg .data s.lines := by
  cases bytes with
  | nil => exact absurd rfl h
  | cons b rest => rfl

end Sys2Proof.Machine
end

section
/-! SUPPORT. The statements of 40_transport_primitives.md, 30_encoding.md and 44_wire_encoder.md about instructions that are
primitives or sequences of them. -/

open Sys2Proof Sys2Proof.Machine

/-- Settles O14: a drive that is not answered `fault`. -/
theorem setLineDrivesItsLatch : Obligations.SetLineDrivesItsLatch := by
  intro s level h
  have drive (line : Line) (hline : line.isOutput = true) : exec (.setLine line level) s =
      .next ((s.takeAnswer.driveLine line level).record (.setLine line level .ok)) := by
    simp only [exec, execSetLine, hline, setLine_ok (faultNext_eq_false h), Attempt.settle]
  rw [drive .dc rfl, drive .cs rfl, drive .rst rfl, List.drop_one]
  exact ⟨rfl, rfl, rfl⟩

/-- Settles O15: a drive that is answered `fault`, which may or may not have reached the pin. -/
theorem failedSetLineRaisesTransportFault : Obligations.FailedSetLineRaisesTransportFault := by
  intro s line level hline hhead
  have hexec : exec (.setLine line level) s =
      .next (((s.takeAnswer.driveFailed line level).record (.setLine line level .failed)).raise .transportFault) := by
    simp only [exec, execSetLine, hline, setLine_fault (faultNext_of_head hhead), Attempt.settle]
  refine ⟨_, hexec, rfl, rfl, rfl, rfl, rfl, rfl, rfl, ?_, rfl, rfl, rfl, rfl, rfl, rfl⟩
  rw [State.raise_lines, State.record_lines, State.driveFailed_lines]
  split_ifs
  · exact .inr rfl
  · exact .inl rfl

/-- Settles O16, by evaluating the four terms and the LUT family's length. -/
theorem illFormedTermsStop : Obligations.IllFormedTermsStop := by
  intro s level index
  refine ⟨rfl, rfl, rfl, rfl, fun h => ?_⟩
  have hnone : s.cfg.codes.lut[index]? = none := Vector.getElem?_eq_none h
  simp only [exec, execCmdLut, hnone]

/-- Settles O17: a sample, and one that is answered `fault`. -/
theorem readLineRecordsTheSample : Obligations.ReadLineRecordsTheSample := by
  intro s
  rw [List.drop_one]
  refine ⟨fun h => ?_, fun h => ?_⟩
  · simp only [exec, execReadLine, readBusy_ok (faultNext_eq_false h)]
    rfl
  · simp only [exec, execReadLine, readBusy_fault (faultNext_of_head h)]
    rfl

/-- Settles O18, by unfolding the primitive. -/
theorem delayOnlyMarksTheTrace : Obligations.DelayOnlyMarksTheTrace := fun _ _ => rfl

/-- Settles O19: the frame as one element, and the four effects this element stands for. -/
theorem transmitByteIsFourEffects : Obligations.TransmitByteIsFourEffects := by
  intro s kind value h
  refine ⟨exec_frame h rfl, ?_⟩
  simp [State.refinedTrace, afterFrame, Event.pins]

/-- Settles O20. -/
theorem framesAreTransmittedBytes : Obligations.FramesAreTransmittedBytes :=
  fun _ _ h => ⟨exec_frame h rfl, exec_frame h rfl, rfl, rfl⟩

/-- Settles O21, by what a failed frame leaves. -/
theorem failedFrameStopsAtItsEffect : Obligations.FailedFrameStopsAtItsEffect := by
  intro s kind value n hn hok hf
  obtain ⟨hfail, h⟩ := transmitByte_fault kind value hn hok hf
  refine ⟨(transmitByte kind value s).st.raise .transportFault, ?_, h.tr, rfl, rfl, rfl, rfl, h.same.ls, h.faults, h.rst,
    h.selecting, h.selected, h.activating, h.transferring, h.deactivating, h.same.pbb, h.same.img, h.same.operands,
    h.same.port, h.busy, h.same.cfg⟩
  simp only [exec, execTransmitByte, Attempt.settle, hfail]

/-- Settles O22, by induction on the pattern. -/
theorem pulseResetDrivesItsPattern : Obligations.PulseResetDrivesItsPattern := by
  intro s pattern h
  simp only [exec, execPulseReset, pulseReset_ok pattern s h, Attempt.settle]

/-- Settles O23: each row is the frame of its parameter. -/
theorem vendorCommandIsOneCommandFrame : Obligations.VendorCommandIsOneCommandFrame := by
  intro s h
  refine ⟨exec_frame h rfl, exec_frame h rfl, exec_frame h rfl, exec_frame h rfl, exec_frame h rfl, exec_frame h rfl,
    exec_frame h rfl, exec_frame h rfl, exec_frame h rfl, exec_frame h rfl, exec_frame h rfl, exec_frame h rfl,
    exec_frame h rfl, exec_frame h rfl, exec_frame h rfl, exec_frame h rfl, exec_frame h rfl, exec_frame h rfl,
    exec_frame h rfl, exec_frame h rfl, exec_frame h rfl, fun index hindex => exec_frame h ?_⟩
  simp [attemptOf, vendorByte, Vector.getElem?_eq_getElem hindex]

/-- Settles O24: each row is the data frame of its byte. -/
theorem wireByteIsOneDataFrame : Obligations.WireByteIsOneDataFrame :=
  fun _ h => ⟨exec_frame h rfl, exec_frame h rfl, exec_frame h rfl, exec_frame h rfl⟩

/-- Settles O25: the formula over all bytes; the inverse over all bytes, which makes the expansion injective. -/
theorem expansionInTermsOfTheByte : Obligations.ExpansionInTermsOfTheByte := by
  intro b
  have formula : expandPairs b =
      [BitVec.ofNat 8 (48 * (b.getLsbD 7).toNat + 3 * (b.getLsbD 6).toNat),
        BitVec.ofNat 8 (48 * (b.getLsbD 5).toNat + 3 * (b.getLsbD 4).toNat),
        BitVec.ofNat 8 (48 * (b.getLsbD 3).toNat + 3 * (b.getLsbD 2).toNat),
        BitVec.ofNat 8 (48 * (b.getLsbD 1).toNat + 3 * (b.getLsbD 0).toNat)] := by
    revert b; decide
  have inverse (x : Byte) :
      packFromWire (wireByte (~~~x) 0) (wireByte (~~~x) 1) (wireByte (~~~x) 2) (wireByte (~~~x) 3) = x := by
    revert x; decide
  have unpack {x o0 o1 o2 o3 : Byte} (h : expandPairs x = [o0, o1, o2, o3]) : packFromWire o0 o1 o2 o3 = x := by
    obtain ⟨rfl, rfl, rfl, rfl⟩ : wireByte (~~~x) 0 = o0 ∧ wireByte (~~~x) 1 = o1 ∧ wireByte (~~~x) 2 = o2 ∧
        wireByte (~~~x) 3 = o3 := by simpa [expandPairs, List.range_succ] using h
    exact inverse x
  exact ⟨formula, fun _ _ _ _ => unpack, fun b' h => (unpack rfl).symm.trans (unpack h.symm)⟩

/-- Settles O26, by the frames of one input byte. -/
theorem expandEmitsItsFourBytes : Obligations.ExpandEmitsItsFourBytes := by
  intro s b h
  simp only [exec, execExpandByteToNibblePairs, sendByte_ok b s h, Attempt.settle]
  rfl

/-- Settles O27, by the frames of the buffer. -/
theorem encodeSendsTheBuffer : Obligations.EncodeSendsTheBuffer := by
  intro s h
  have hlen : (encodeBuffer s.pbb).length = 122880 := encodeBuffer_length s.pbb
  have hne : encodeBuffer s.pbb ≠ [] := by
    intro hnil
    simp [hnil] at hlen
  obtain ⟨d, hd⟩ := sendBuffer_ok bufSz 0 s h
  refine ⟨afterData (encodeBuffer s.pbb) d s, ?_, rfl, hlen, afterData_lines hne d s, rfl, rfl, rfl, rfl, rfl, rfl, rfl,
    rfl, rfl, rfl, rfl, rfl⟩
  simp only [exec, execEncode, hd, Attempt.settle]
  rfl

end

section
/-! SUPPORT. The checks of an operation and its completion, as steps; and a step under another port and other memories. -/

namespace Sys2Proof.Machine

open Host

variable {op : Op} {ph : Phase} {k : Nat} {s t : State}

/-! ### The operation's own steps -/

/-- The step at a control position is the meaning of the operation's instruction. -/
theorem step_control (hrst : s.port.rstN = true) (hr : s.run = true) (hs : s.seq = .pos op ph k)
    (hp : op.hasPhase ph = true) (hc : isControl ph = true) (hx : exec op.instr s.clearDone = .next t) :
    step s = .next t := by
  rw [step_running hrst hr]
  exact runStep_control (s := s.clearDone) hs hp hc hx

/-- At a check `operate` makes it. -/
theorem operate_check (check : Nat → State → State) (hr : s.run = true) (hs : s.seq = .pos op .check k) :
    operate op check s = check k s := by
  simp [operate, hr, hs]

/-- At the completion `operate` ends the operation with `OK`. -/
theorem operate_done (check : Nat → State → State) (hr : s.run = true) (hs : s.seq = .pos op .done k) :
    operate op check s = s.finish .ok := by
  simp [operate, hr, hs]

/-- The position after the state check, where an operation has one (41_protocol_driver.md R133 to R137). -/
def Op.afterStateCheck : Op → Phase × Nat
  | .init => (.pulse, 0)
  | .clear => (.startCmd, 0)
  | .display => (.check, 1)
  | .sleep => (.powerOffCmd, 0)
  | .reset => (.pulse, 0)
  | .convert => (.pixel, 0)

/-- The state check, as the meaning of the operation's instruction. -/
theorem exec_stateCheck (hr : s.run = true) (hs : s.seq = .pos op .check 0) (hp : op.hasPhase .check = true) :
    exec op.instr s =
      .next (if op.validIn s.ls then s.goto op op.afterStateCheck.1 op.afterStateCheck.2 else s.raise .invalidState) := by
  have check (next : State → State) : stateCheck op next s = if op.validIn s.ls then next s else s.raise .invalidState := by
    unfold stateCheck
    cases op.validIn s.ls <;> rfl
  cases op
  case reset => exact absurd hp (by decide)
  case convert => exact absurd hp (by decide)
  case init => exact congrArg Outcome.next ((operate_check _ hr hs).trans (check _))
  case clear => exact congrArg Outcome.next ((operate_check _ hr hs).trans (check _))
  case display => exact congrArg Outcome.next ((operate_check _ hr hs).trans (check _))
  case sleep => exact congrArg Outcome.next ((operate_check _ hr hs).trans (check _))

/-- The length check of `Display`, as the meaning of its instruction. -/
theorem exec_lengthCheck (hr : s.run = true) (hs : s.seq = .pos .display .check 1) :
    exec .display s =
      .next (if s.operands.len = 30720 then s.goto .display .startCmd 0 else s.raise .invalidBufferSize) := by
  have hcheck : displayCheck 1 s =
      if s.operands.len = 30720 then s.goto .display .startCmd 0 else s.raise .invalidBufferSize := by
    simp only [displayCheck, lengthCheck, bufLenOk, bufSz_eq]
    by_cases hlen : s.operands.len = 30720 <;> simp [hlen]
  exact congrArg Outcome.next ((operate_check _ hr hs).trans hcheck)

/-- The completion, as the meaning of the operation's instruction. -/
theorem exec_done (hr : s.run = true) (hs : s.seq = .pos op .done k) : exec op.instr s = .next (s.finish .ok) := by
  cases op
  case convert =>
    simp only [Op.instr, exec, execConvert, hr, hs]
    exact congrArg Outcome.next (operate_done _ hr hs)
  all_goals exact congrArg Outcome.next (operate_done _ hr hs)

/-- A state check that passes. -/
theorem step_stateCheck_valid (hrst : s.port.rstN = true) (hr : s.run = true) (hs : s.seq = .pos op .check 0)
    (hp : op.hasPhase .check = true) (hv : op.validIn s.ls = true) :
    step s = .next (s.clearDone.goto op op.afterStateCheck.1 op.afterStateCheck.2) :=
  step_control hrst hr hs hp rfl (by rw [exec_stateCheck (s := s.clearDone) hr hs hp]; simp [hv])

/-- A state check that fails. -/
theorem step_stateCheck_invalid (hrst : s.port.rstN = true) (hr : s.run = true) (hs : s.seq = .pos op .check 0)
    (hp : op.hasPhase .check = true) (hv : op.validIn s.ls = false) : step s = .next (s.clearDone.raise .invalidState) :=
  step_control hrst hr hs hp rfl (by rw [exec_stateCheck (s := s.clearDone) hr hs hp]; simp [hv])

/-- A length check that passes. -/
theorem step_lengthCheck_valid (hrst : s.port.rstN = true) (hr : s.run = true) (hs : s.seq = .pos .display .check 1)
    (hlen : s.operands.len = 30720) : step s = .next (s.clearDone.goto .display .startCmd 0) :=
  step_control hrst hr hs rfl rfl ((exec_lengthCheck (s := s.clearDone) hr hs).trans (by simp [hlen]))

/-- A length check that fails. -/
theorem step_lengthCheck_invalid (hrst : s.port.rstN = true) (hr : s.run = true) (hs : s.seq = .pos .display .check 1)
    (hlen : s.operands.len ≠ 30720) : step s = .next (s.clearDone.raise .invalidBufferSize) :=
  step_control hrst hr hs rfl rfl ((exec_lengthCheck (s := s.clearDone) hr hs).trans (by simp [hlen]))

/-- The completion of an operation. -/
theorem step_done (hrst : s.port.rstN = true) (hr : s.run = true) (hs : s.seq = .pos op .done k)
    (hp : op.hasPhase .done = true) : step s = .next (s.clearDone.finish .ok) :=
  step_control hrst hr hs hp rfl (exec_done (s := s.clearDone) hr hs)

/-- An operation that has invalid states checks its state first. -/
theorem hasPhase_check_of_invalid {ls : Lifecycle} (h : op.validIn ls = false) :
    op.hasPhase .check = true ∧ op.firstPhase = .check ∧ accepted op s = accept op s := by
  cases op
  case reset => cases h
  case convert => cases h
  all_goals exact ⟨rfl, rfl, rfl⟩

/-! ### What a step reads and writes of the host's memories -/

/-- No step writes the configuration or `IMG`. -/
theorem step_keeps_cfg_img (h : step s = .next t) : t.cfg = s.cfg ∧ t.img = s.img := by
  cases hrst : s.port.rstN with
  | false =>
    rw [step_blockReset hrst] at h
    cases h
    exact ⟨rfl, rfl⟩
  | true =>
    rcases step_cases hrst h with ⟨-, rfl | ⟨op, d, rfl⟩⟩ | ⟨-, op, ph, k, hs, -, hstep⟩
    · exact ⟨rfl, rfl⟩
    · exact ⟨rfl, rfl⟩
    · cases hstep with
      | control hc hctl =>
        cases hctl
        case pixel hpx =>
          obtain ⟨_, _, _, _, rfl, -⟩ := pixelStep_frame hpx
          exact ⟨rfl, rfl⟩
        all_goals exact ⟨rfl, rfl⟩
      | moved i s0 a d hc hf hs0 ha hok hadv =>
        have same := (attemptOf_spec ha).1
        subst hs0
        rcases advancePhase_cases hadv with ⟨_, _, _, rfl⟩ | ⟨-, _, rfl⟩ <;> exact ⟨same.cfg, same.img⟩
      | faulted i s0 a d hc hf hs0 ha hok hend =>
        have same := (attemptOf_spec ha).1
        subst hs0 hend
        exact ⟨same.cfg, same.img⟩

/-- The write ports show a byte at a pixel of `Convert` only, at the address of its registers. -/
theorem cvWrite_some {a : Nat} {v : Byte} (h : s.cvWrite = some (a, v)) :
    ∃ k i j, s.seq = .pos .convert .pixel k ∧ s.dp.ci = some i ∧ s.dp.cj = some j ∧ a = pbbAddr i j := by
  unfold State.cvWrite at h
  cases hp : s.pixelAt with
  | none => simp [hp] at h
  | some q =>
    obtain ⟨i, j, acc⟩ := q
    simp only [hp] at h
    split_ifs at h
    cases h
    unfold State.pixelAt at hp
    split at hp <;> cases hp
    exact ⟨_, i, j, ‹_›, ‹_›, ‹_›, rfl⟩

/-- The step while no operation runs reads no pixel and no byte, and writes none. -/
theorem step_hosted_idle {g : Image} (m : List Cell) (hr : s.run = false) (hw : g.w = s.img.w) (hh : g.h = s.img.h)
    (h : step s = .next t) : step (s.hosted s.port g m) = .next (t.hosted t.port g m) := by
  cases hrst : s.port.rstN with
  | false =>
    rw [step_blockReset hrst] at h
    cases h
    exact step_blockReset (s := s.hosted s.port g m) hrst
  | true =>
    rw [step_idle hrst hr] at h
    rw [step_idle (s := s.hosted s.port g m) hrst hr]
    unfold idleStep at h ⊢
    cases hv : s.port.opValid with
    | false =>
      simp only [State.clearDone_port, State.hosted_port, hv, Outcome.next.injEq] at h ⊢
      subst h
      rfl
    | true =>
      simp only [State.clearDone_port, State.hosted_port, hv] at h ⊢
      rcases decodeOpCode_cases s.port.opCode with ⟨op, hc⟩ | hc | hc
      · rw [hc, exec_instr_idle (s := s.clearDone) op hr] at h
        cases h
        rw [hc, exec_instr_idle (s := (s.hosted s.port g m).clearDone) op hr]
        have hoperands : (s.hosted s.port g m).clearDone.offeredOperands = s.clearDone.offeredOperands := by
          simp only [State.offeredOperands, State.clearDone_img, State.hosted_img, State.clearDone_port,
            State.hosted_port, hw, hh]
        simp only [accepted, accept, hoperands]
        split_ifs <;> rfl
      · rw [hc] at h ⊢
        cases h
        rfl
      · rw [hc] at h ⊢
        cases h
        rfl

/-- A step reads of `PBB` and `IMG` what the read ports show, and writes of `PBB` what the write ports show: under another
buffer and another image that agree there it is the same but for them (10_state.md R44, 20_memory.md R60, R61). -/
theorem step_hosted_memories {g : Image} {m : List Cell} (h : step s = .next t)
    (hsize : s.run = false → g.w = s.img.w ∧ g.h = s.img.h)
    (hg : ∀ x y, s.pxX = some x → s.pxY = some y → g.pixel x y = s.img.pixel x y)
    (hm : ∀ a, s.bufAddr = some a → pbbByte m a = pbbByte s.pbb a) :
    step (s.hosted s.port g m) = .next (t.hosted t.port g (s.bufferAfter m)) := by
  cases hr : s.run with
  | false =>
    obtain ⟨hw, hh⟩ := hsize hr
    have hquiet : s.bufferAfter m = m := by
      simp [State.bufferAfter, State.cvWrite, State.pixelAt, State.operating, hr]
    rw [hquiet]
    exact step_hosted_idle m hr hw hh h
  | true =>
    have hport : t.port = s.port := by
      cases hrst : s.port.rstN with
      | false => rw [step_blockReset hrst] at h; cases h; rfl
      | true => exact (step_keeps_request hr hrst h).1
    rw [step_hosted s.port g m s hr rfl hg hm, h, hport]
    rfl

/-- A step writes of `PBB` exactly what the write ports show. -/
theorem step_pbb (h : step s = .next t) : t.pbb = s.bufferAfter s.pbb := by
  have hsame := step_hosted_memories (g := s.img) (m := s.pbb) h (fun _ => ⟨rfl, rfl⟩) (fun _ _ _ _ => rfl) fun _ _ => rfl
  exact congrArg State.pbb (Outcome.next.inj (h.symm.trans hsame))

end Sys2Proof.Machine
end

section
/-! SUPPORT. The statements about the step, requests, the checks, and what is the host's. -/

open Sys2Proof Sys2Proof.Machine

/-- Settles O4, by unfolding the idle step. -/
theorem stepRunsTheRequestAtThePort : Obligations.StepRunsTheRequestAtThePort := by
  rintro s ⟨hrst, hr⟩
  rw [step_idle hrst hr]
  exact ⟨fun hv => by simp only [idleStep, State.clearDone_port, hv]; rfl,
    fun hv => by simp only [idleStep, State.clearDone_port, hv]; rfl⟩

/-- Settles O5, by unfolding the step of an operation in progress. -/
theorem stepRunsTheInstructionAtSeq : Obligations.StepRunsTheInstructionAtSeq := by
  intro s s0 i hrst hr hfetch
  have hf : fetch s.clearDone = .ok (i, s0) := hfetch
  rw [step_running hrst hr]
  exact ⟨fun t ht => by simp only [runStep, hf, ht, State.clearDone_seq], fun f hx => by simp only [runStep, hf, hx]⟩

/-- Settles O7: block reset, field by field. -/
theorem blockResetLeavesTheStatedValues : Obligations.BlockResetLeavesTheStatedValues :=
  ⟨fun s hrst => ⟨s.blockReset, step_blockReset hrst, rfl, rfl, rfl, rfl, rfl, rfl, rfl, rfl, rfl, rfl, rfl, rfl, rfl, rfl,
    rfl, rfl⟩, rfl, rfl, rfl, rfl, rfl, rfl, rfl, rfl, rfl⟩

/-- Settles O8, by what acceptance writes. -/
theorem requestIsAcceptedWhileIdle : Obligations.RequestIsAcceptedWhileIdle := fun _ hr =>
  ⟨exec_instr_idle .reset hr, exec_instr_idle .init hr, exec_instr_idle .clear hr, exec_instr_idle .display hr,
    exec_instr_idle .sleep hr, exec_instr_idle .convert hr⟩

/-- Settles O9: the meaning of the two rows, and the idle step that meets one. -/
theorem reservedCodeChangesNothing : Obligations.ReservedCodeChangesNothing := by
  refine fun s => ⟨rfl, rfl, fun hw hv hcode => ?_⟩
  rw [(stepRunsTheRequestAtThePort s hw).1 hv]
  rcases hcode with h | h <;> rw [h] <;> rfl

/-- Settles O10: a step keeps the port and the operands, and reads of the host only pixels within the operands' bounds. -/
theorem requestIsHeldOffWhileRunning : Obligations.RequestIsHeldOffWhileRunning := by
  intro s t hr h
  have himg := (step_keeps_cfg_img h).2
  have hport : t.port = s.port := by
    cases hrst : s.port.rstN with
    | false => rw [step_blockReset hrst] at h; cases h; rfl
    | true => exact (step_keeps_request hr hrst h).1
  refine ⟨hport, himg, fun hrst => (step_keeps_request hr hrst h).2, fun code len image hpx => ?_⟩
  have hstep := step_hosted (s.offer code len).port image s.pbb s hr rfl
    (fun x y hx hy => hpx x y (State.px_inBounds hx hy).1 (State.px_inBounds hx hy).2) fun _ _ => rfl
  rw [h, ← step_pbb h] at hstep
  refine hstep.trans ?_
  simp only [hostedOutcome, State.hosted, State.offer, hport]

/-- Settles O11, by the meaning of a state check. -/
theorem stateCheckFollowsTheTable : Obligations.StateCheckFollowsTheTable := by
  intro s op valid next hr hs hcases
  suffices hrow : op.hasPhase .check = true ∧ op.validIn s.ls = valid ∧
      next = .pos op op.afterStateCheck.1 op.afterStateCheck.2 by
    obtain ⟨hp, hvalid, rfl⟩ := hrow
    rw [exec_stateCheck hr hs hp, hvalid]
    rfl
  rcases hcases with ⟨rfl, rfl, rfl⟩ | ⟨rfl, rfl, rfl⟩ | ⟨rfl, rfl, rfl⟩ | ⟨rfl, rfl, rfl⟩ <;>
    exact ⟨rfl, by cases s.ls <;> rfl, rfl⟩

/-- Settles O12: acceptance, and a state check that fails. -/
theorem invalidStateDrivesNothing : Obligations.InvalidStateDrivesNothing := by
  rintro s op ⟨hrst, hr⟩ hv
  obtain ⟨hp, hfirst, hacc⟩ := hasPhase_check_of_invalid (s := s) hv
  refine ⟨accept op s, (exec_instr_idle op hr).trans (congrArg _ hacc), ?_⟩
  have hseq : (accept op s).seq = .pos op .check 0 := by rw [accept_seq, hfirst]
  exact runs_one (step_stateCheck_invalid hrst rfl hseq hp hv)

/-- Settles O13: acceptance, a state check that passes, and a length check that fails. -/
theorem wrongBufferLengthDrivesNothing : Obligations.WrongBufferLengthDrivesNothing := by
  rintro s ⟨hrst, hr⟩ hls hlen
  refine ⟨accept .display s, exec_instr_idle .display hr, ?_⟩
  have hvalid : Op.display.validIn (accept .display s).ls = true := by rw [accept_ls, hls]; rfl
  rw [runs_succ (step_stateCheck_valid (s := accept .display s) hrst rfl rfl rfl hvalid)]
  exact runs_one (step_lengthCheck_invalid (s := (accept .display s).clearDone.goto .display .check 1) hrst rfl rfl hlen)

/-- Settles O60: what a step writes and what it reads of the host's memories, as the ports show it. -/
theorem onlyConvertWritesTheBuffer : Obligations.OnlyConvertWritesTheBuffer := by
  intro s t h
  obtain ⟨hcfg, himg⟩ := step_keeps_cfg_img h
  have hpbb := step_pbb h
  have quiet (m : List Host.Cell) (hw : s.cvWrite = none) : s.bufferAfter m = m := by simp [State.bufferAfter, hw]
  have writes {a : Nat} {v : Byte} (m : List Host.Cell) (hw : s.cvWrite = some (a, v)) :
      s.bufferAfter m = memWrite pbbDefault m a v := by simp [State.bufferAfter, hw]
  refine ⟨hcfg, himg, ?_, fun hw => hpbb.trans (quiet _ hw), fun a v hw => hpbb.trans (writes _ hw), fun m hm => ?_,
    fun image hsize hpx => ?_⟩
  · cases hw : s.cvWrite with
    | none => exact .inl (hpbb.trans (quiet _ hw))
    | some p =>
      obtain ⟨a, v⟩ := p
      obtain ⟨k, i, j, hs, hi, hj, rfl⟩ := cvWrite_some hw
      refine .inr ⟨k, i, j, hs, hi, hj, fun b hb => ?_⟩
      rw [hpbb, writes _ hw]
      exact memRead_memWrite_ne v hb
  · have hstep := step_hosted_memories (g := s.img) h (fun _ => ⟨rfl, rfl⟩) (fun _ _ _ _ => rfl) hm
    rw [← himg] at hstep
    refine ⟨fun hw => ?_, fun a v hw => ?_⟩
    · rw [quiet m hw] at hstep
      exact himg ▸ hstep
    · rw [writes m hw] at hstep
      exact himg ▸ hstep
  · have hstep := step_hosted_memories (m := s.pbb) h hsize hpx fun _ _ => rfl
    rw [← hpbb] at hstep
    exact hstep

end

section
/-! SUPPORT. The wire frame pixel by pixel, the bits of the packed byte, the quantiser, and the canonical memories. -/

namespace Sys2Proof.Machine

/-! ### The wire frame -/

/-- Pair `r` of buffer byte `q` is wire byte `4 * q + r` (44_wire_encoder.md R208). -/
theorem wireStream_getElem? (m : List Host.Cell) {n q r : Nat} (a : Nat) (hq : q < n) (hr : r < 4) :
    (wireStream m n a)[4 * q + r]? = some (wireByte (~~~(pbbByte m (a + q))) r) := by
  have hlen : (expandPairs (pbbByte m a)).length = 4 := rfl
  induction n generalizing a q with
  | zero => omega
  | succ n ih =>
    cases q with
    | zero =>
      rw [wireStream, List.getElem?_append_left (by omega)]
      simp [expandPairs, hr]
    | succ q =>
      have hidx : 4 * (q + 1) + r - 4 = 4 * q + r := by omega
      have haddr : a + (q + 1) = a + 1 + q := by omega
      rw [wireStream, List.getElem?_append_right (by omega), hlen, hidx, ih (a + 1) (by omega) rfl, haddr]

theorem combineNibbles_high (first second : BitVec 4) : (combineNibbles first second).extractLsb' 4 4 = first := by
  revert first second; decide

theorem combineNibbles_low (first second : BitVec 4) : (combineNibbles first second).extractLsb' 0 4 = second := by
  revert first second; decide

/-- The nibble of a bit of the buffer byte, which INV holds inverted (44_wire_encoder.md R201, R203). -/
theorem nibbleOfInv_not (b : Byte) {k : Nat} (hk : k < 8) :
    nibbleOfInv ((~~~b).getLsbD k) = if b.getLsbD k then 0x3#4 else 0x0#4 := by
  rw [BitVec.getLsbD_not, decide_eq_true hk, Bool.true_and]
  cases b.getLsbD k <;> rfl

/-- The nibble of column `c` of a buffer byte: the high one of its pair if `c` is even, the low one if it is odd. -/
theorem wireByte_nibble (b : Byte) {c : Nat} (hc : c < 8) :
    (if c % 2 = 0 then (wireByte (~~~b) (c / 2)).extractLsb' 4 4 else (wireByte (~~~b) (c / 2)).extractLsb' 0 4) =
      if b.getLsbD (7 - c) then 0x3#4 else 0x0#4 := by
  by_cases heven : c % 2 = 0
  · have hbit : 7 - 2 * (c / 2) = 7 - c := by omega
    rw [if_pos heven, wireByte, combineNibbles_high, nibbleOfInv_not b (by omega), hbit]
  · have hbit : 7 - 2 * (c / 2) - 1 = 7 - c := by omega
    rw [if_neg heven, wireByte, combineNibbles_low, nibbleOfInv_not b (by omega), hbit]

/-! ### The bits of the packed byte -/

section
variable {c : Config} {img img' : Image} {g j x y : Nat}

/-- Outside the image the bit is white (43_image_converter.md R182). -/
theorem pixelBit_outside (h : img.w ≤ x ∨ img.h ≤ y) : pixelBit c img x y = true := by
  have hout : inBounds img.w img.h x y = false := by
    rcases h with h | h <;> simp [inBounds, Nat.not_lt.mpr h]
  simp [pixelBit, boundedBit, hout]

/-- The bit of a pixel depends on whether the image contains it, and on the pixel if it does. -/
theorem pixelBit_congr (hin : img'.contains x y = img.contains x y)
    (hpx : img.contains x y = true → img'.pixel x y = img.pixel x y) : pixelBit c img' x y = pixelBit c img x y := by
  simp only [Image.contains] at hin hpx
  simp only [pixelBit, boundedBit, hin]
  cases hb : inBounds img.w img.h x y with
  | false => rfl
  | true => exact congrArg (quantize c) (hpx hb)

/-- The packed byte depends on the bits of its eight pixels. -/
theorem packedByte_congr (h : ∀ n, n < 8 → pixelBit c img' (8 * g + n) j = pixelBit c img (8 * g + n) j) :
    packedByte c img' g j = packedByte c img g j := by
  have hmap : ((List.range 8).map fun n => pixelBit c img' (8 * g + n) j) =
      (List.range 8).map fun n => pixelBit c img (8 * g + n) j :=
    List.map_congr_left fun n hn => h n (List.mem_range.mp hn)
  rw [packedByte_eq_accumulated, packedByte_eq_accumulated, accumulated, accumulated, hmap]

end

/-! ### The quantiser -/

/-- The squares of the distances of a channel to black and to white. -/
theorem channel_squares {r : Nat} (hr : r < 256) : (255 - r) * (255 - r) + 510 * r = 65025 + r * r := by
  obtain ⟨x, hx⟩ := Nat.exists_eq_add_of_le (Nat.le_of_lt_succ hr)
  have hsub : 255 - r = x := by omega
  rw [hsub]
  nlinarith

/-- The nearer of black and white is white exactly when the channels add up to 383 (43_image_converter.md R183). -/
theorem quantizeDefault_eq (p : Rgb) : quantizeDefault p = decide (383 ≤ red p + green p + blue p) := by
  have hr := channel_squares (show red p < 256 from BitVec.isLt _)
  have hg := channel_squares (show green p < 256 from BitVec.isLt _)
  have hb := channel_squares (show blue p < 256 from BitVec.isLt _)
  unfold quantizeDefault distWhite distBlack
  exact decide_eq_decide.mpr (by omega)

/-- There is a list of the colours that have a property. -/
theorem exists_colours (P : Rgb → Prop) : ∃ colours : List Rgb, ∀ p, p ∈ colours ↔ P p := by
  have hfinite : Finite Rgb := Finite.of_injective BitVec.toFin fun _ _ => BitVec.eq_of_toFin_eq
  exact ⟨(Set.toFinite {p | P p}).toFinset.toList, fun p => by simp⟩

/-! ### Canonical memories -/

/-- Two canonical memories that read alike are equal. -/
theorem memWf_ext {α : Type} [DecidableEq α] {d : α} {hi lo : Nat} {m m' : List (Nat × α)}
    (h : memWfFrom d hi lo m = true) (h' : memWfFrom d hi lo m' = true) (hread : ∀ a, memRead d m a = memRead d m' a) :
    m = m' := by
  have head_ne {lo : Nat} {k : Nat} {v : α} {rest n : List (Nat × α)} (hcons : memWfFrom d hi lo ((k, v) :: rest) = true)
      (hn : memRead d n k = d) : ¬ ∀ a, memRead d ((k, v) :: rest) a = memRead d n a := by
    intro hall
    have hv := (hall k).trans hn
    simp only [memRead, if_true] at hv
    simp [memWfFrom, hv] at hcons
  induction m generalizing lo m' with
  | nil =>
    match m', h' with
    | [], _ => rfl
    | (k', v') :: rest', h' => exact absurd (fun a => (hread a).symm) (head_ne h' rfl)
  | cons e rest ih =>
    obtain ⟨k, v⟩ := e
    match m', h' with
    | [], _ => exact absurd hread (head_ne h rfl)
    | (k', v') :: rest', h' =>
      have hk : memWfFrom d hi k ((k, v) :: rest) = true ∧ memWfFrom d hi (k + 1) rest = true := by
        simp only [memWfFrom, Bool.and_eq_true, decide_eq_true_eq] at h ⊢
        exact ⟨⟨⟨⟨Nat.le_refl k, h.1.1.2⟩, h.1.2⟩, h.2⟩, h.2⟩
      have hk' : memWfFrom d hi k' ((k', v') :: rest') = true ∧ memWfFrom d hi (k' + 1) rest' = true := by
        simp only [memWfFrom, Bool.and_eq_true, decide_eq_true_eq] at h' ⊢
        exact ⟨⟨⟨⟨Nat.le_refl k', h'.1.1.2⟩, h'.1.2⟩, h'.2⟩, h'.2⟩
      rcases Nat.lt_trichotomy k k' with hlt | rfl | hgt
      · exact absurd hread (head_ne h (memRead_below hk'.1 hlt))
      · have hv : v = v' := by simpa [memRead] using hread k
        subst hv
        have htail : rest = rest' := by
          refine ih hk.2 hk'.2 fun a => ?_
          by_cases ha : k = a
          · rw [memRead_below hk.2 (by omega), memRead_below hk'.2 (by omega)]
          · simpa [memRead, ha] using hread a
        rw [htail]
      · exact absurd (fun a => (hread a).symm) (head_ne h' (memRead_below hk.1 hgt))

end Sys2Proof.Machine
end

section
/-! SUPPORT. The statements of 44_wire_encoder.md, 43_image_converter.md and 20_memory.md about bytes, pixels and memories. -/

open Sys2Proof Sys2Proof.Machine

/-- Settles O28: the pair of a pixel in the stream, and the nibble of its column. -/
theorem wireFrameIsInRasterOrder : Obligations.WireFrameIsInRasterOrder := by
  intro m i j hi hj
  have hbyte : i / 8 + 80 * j < bufSz := by
    rw [bufSz_eq]
    omega
  refine ⟨_, wireStream_getElem? m 0 hbyte (by omega : i % 8 / 2 < 4), ?_⟩
  have heven : i % 2 = i % 8 % 2 := by omega
  rw [Nat.zero_add, heven]
  exact wireByte_nibble _ (Nat.mod_lt i (by decide))

/-- Settles O41: the run of `Convert`. -/
theorem convertPacksTheImage : Obligations.ConvertPacksTheImage := by
  intro s hs hm
  obtain ⟨u, k, m, hu, hruns, hpacked⟩ := convert_completes hs hm
  refine ⟨u, k, converted s m, hu, hruns,
    ⟨rfl, rfl, rfl, rfl, rfl, rfl, (List.append_nil _).symm, rfl, rfl, rfl, rfl⟩, fun g j hg hj => ?_, hpacked.wf, rfl,
    rfl, rfl⟩
  have hcol : (g + 80 * j) % 80 = g := by omega
  have hrow : (g + 80 * j) / 80 = j := by omega
  have hbyte := hpacked.bytes (g + 80 * j) (by omega)
  rwa [hcol, hrow] at hbyte

/-- Settles O44: the sum rule by the squares of the distances; a list for a quantiser, the colours where it is not the
default. -/
theorem quantizeIsTheSumRule : Obligations.QuantizeIsTheSumRule := by
  refine ⟨quantizeDefault_eq, fun c => ⟨quantize_black c, quantize_white c, fun hflips p => ?_⟩, fun f hblack hwhite => ?_⟩
  · unfold quantize
    split_ifs with h0 h1
    · rw [h0]; decide
    · rw [h1]; decide
    · simp [hflips]
  · obtain ⟨flips, hmem⟩ := exists_colours fun p => f p ≠ quantizeDefault p
    refine ⟨flips, fun c hc p => ?_⟩
    unfold quantize
    split_ifs with h0 h1
    · rw [h0]; exact hblack.symm
    · rw [h1]; exact hwhite.symm
    · have flip : ∀ x y : Bool, (y ^^ decide (x ≠ y)) = x := by decide
      rw [hc, decide_eq_decide.mpr (hmem p)]
      exact flip (f p) (quantizeDefault p)

/-- Settles O46, clause by clause from the bits of the eight pixels. -/
theorem packedByteOfSpecialImages : Obligations.PackedByteOfSpecialImages := by
  intro c img g j
  have bit := (packedByteIsTheAccumulator c img g j).2
  refine ⟨fun n hn hout => ?_, fun hempty => ?_, fun hw hh hpure => ?_, fun hpure => ?_, fun img' hg hj hsame => ?_⟩
  · rw [bit n hn, pixelBit_outside hout]
  · exact packedByte_of_uniform (v := true) fun n _ => pixelBit_outside (by omega)
  · exact packedByte_of_pure (quantize_black c) hpure hw hh
  · refine packedByte_of_uniform (v := true) fun n _ => ?_
    by_cases hin : 8 * g + n < img.w ∧ j < img.h
    · rw [pixelBit_inside c hin.1 hin.2, hpure _ _ hin.1 hin.2, quantize_white]
    · exact pixelBit_outside (by omega)
  · refine packedByte_congr fun n hn => ?_
    obtain ⟨hin, hpx⟩ := hsame (8 * g + n) j (by omega) hj
    exact pixelBit_congr hin hpx

/-- Settles O47, by the laws of the sparse memory. -/
theorem bufferMemoryIsCanonical : Obligations.BufferMemoryIsCanonical :=
  ⟨fun _ a v h ha => ⟨pbbByte_writePbb_same h a v, fun _ hb => pbbByte_writePbb_ne v hb, writePbb_wf h v ha⟩,
    fun _ _ h h' hread => memWf_ext h h' hread⟩

end

section
/-! SUPPORT. Rounds of the busy-wait as instructions, and a fault at the primitive of a position. -/

namespace Sys2Proof.Machine

open Host

variable {op : Op} {ph : Phase} {k n : Nat} {s : State} {a : Attempt}

/-- One round of a wait, begun or gone on with: the round after `n` low samples, PC at `n`. -/
theorem exec_busyWait (h : s.dp.pc = some n ∨ (s.dp.pc = none ∧ n = 0)) :
    exec .busyWait s = .next (busyRound n (s.setDp { s.dp with pc := some n })) := by
  rcases h with hpc | ⟨hpc, rfl⟩
  · have hsame : s.setDp { s.dp with pc := some n } = s := by rw [← hpc]; rfl
    rw [hsame]
    simp only [exec, execBusyWait, hpc]
  · simp only [exec, execBusyWait, hpc]
    rfl

/-- `TurnOnDisplay`, where its frame does not fault: the first round of its wait, after the frame and the delay. -/
theorem exec_turnOnDisplay (h : NextOk 4 s) :
    exec .turnOnDisplay s =
      .next (busyRound 0 (beginWait ((afterFrame .command s.cfg.codes.displayRefresh s).record
        (.delay s.cfg.tRefreshDelay)))) := by
  simp only [exec, execTurnOnDisplay, sendCommand, transmitByte_ok h, Attempt.andThen, delay]

/-- What a primitive leaves whose effect number `n` was answered `fault`. -/
structure PrimitiveFailed (n : Nat) (s : State) (a : Attempt) : Prop where
  ok : a.ok = false
  busy : a.st.busy = s.busy
  faults : a.st.faults = s.faults.drop (n + 1)
  event : ∃ e, a.st.tr = s.tr ++ [e] ∧ isFailed e = true ∧
    ∀ kind v stage, e = .tx kind v (.failedAt stage) → stage = stageOf n

/-- A frame whose effect number `n` is answered `fault`. -/
theorem PrimitiveFailed.frame (kind : Kind) (v : Byte) (hn : n < 4) (hok : NextOk n s)
    (hf : s.faults[n]? = some .fault) : PrimitiveFailed n s (transmitByte kind v s) := by
  obtain ⟨hfail, h⟩ := transmitByte_fault kind v hn hok hf
  refine ⟨hfail, h.busy, h.faults, _, h.tr, rfl, fun _ _ stage e => ?_⟩
  cases e
  rfl

/-- The primitive of a position fails at the effect that is answered `fault`. -/
theorem PrimitiveAt.fault (h : PrimitiveAt op s ph k a) (hn : n < effectCount ph k) (hok : NextOk n s)
    (hf : s.faults[n]? = some .fault) : PrimitiveFailed n s a := by
  have head (hn1 : n < 1) : n = 0 ∧ s.faultNext = true := by
    obtain rfl : n = 0 := by omega
    exact ⟨rfl, faultNext_of_head (List.head?_eq_getElem?.trans hf)⟩
  cases h with
  | drive _ level hk =>
    simp only [effectCount, hk, if_true] at hn
    obtain ⟨rfl, hnext⟩ := head hn
    rw [setLine_fault hnext]
    exact ⟨rfl, rfl, List.drop_one.symm, _, rfl, rfl, fun _ _ _ e => nomatch e⟩
  | dwell _ ms hk =>
    simp only [effectCount, hk, if_false] at hn
    omega
  | poll =>
    obtain ⟨rfl, hnext⟩ := head hn
    rw [readBusy_fault hnext]
    exact ⟨rfl, rfl, List.drop_one.symm, _, rfl, rfl, fun _ _ _ e => nomatch e⟩
  | refreshDelay => exact absurd hn (Nat.not_lt_zero n)
  | pollDelay => exact absurd hn (Nat.not_lt_zero n)
  | _ => exact .frame _ _ hn hok hf

end Sys2Proof.Machine
end

section
/-! SUPPORT. The statements about one round of a wait and about a fault at a position. -/

open Sys2Proof Sys2Proof.Machine

/-- Settles O30, by the three rounds there are. -/
theorem busyWaitRound : Obligations.BusyWaitRound := by
  intro s n hok hpc
  have hnext : (s.setDp { s.dp with pc := some n }).faultNext = false :=
    faultNext_eq_false (s := s.setDp { s.dp with pc := some n }) (n := 0) hok
  rw [exec_busyWait hpc, List.drop_one]
  refine ⟨fun hl => ?_, fun hl hwithin => ?_, fun hl ⟨limit, hb, hle⟩ => ?_⟩
  · rw [busyRound_high hnext hl]
    rfl
  · rw [busyRound_low hnext hl (pollsExhausted_eq_false hwithin)]
    simp [State.record, countLow, State.setDp, State.takeSample, State.takeAnswer, busyAfter, tPoll]
  · rw [busyRound_timeout hnext hl (pollsExhausted_eq_true hb hle)]
    rfl

/-- Settles O31: the frame, the delay, and the first round of the wait. -/
theorem turnOnDisplayRefreshesThenWaits : Obligations.TurnOnDisplayRefreshesThenWaits := by
  intro s hok
  have hframe : NextOk 4 s := fun a ha => hok a (List.take_subset_take_left s.faults (by decide) ha)
  rw [exec_turnOnDisplay hframe]
  generalize hu : beginWait ((afterFrame .command s.cfg.codes.displayRefresh s).record (.delay s.cfg.tRefreshDelay)) = u
  have hnext : u.faultNext = false := by
    subst hu
    exact faultNext_eq_false (n := 0) (nextOk_drop (n := 4) (m := 1) hok rfl)
  have hfaults : u.faults.tail = s.faults.drop 5 := by subst hu; exact List.tail_drop
  have hcfg : u.cfg = s.cfg := by subst hu; rfl
  have hlevel : u.busy.level = s.busy.level := by subst hu; rfl
  refine ⟨fun hl => ?_, fun hl hwithin => ?_, fun hl ⟨limit, hb, hle⟩ => ?_⟩
  · rw [busyRound_high hnext (hlevel.trans hl), State.takeAnswer, hfaults]
    subst hu
    simp [State.record, endWait, State.setDp, State.takeSample, beginWait, afterFrame, busyAfter, refreshEvents, waitEvents,
      cmdEvent]
  · rw [busyRound_low hnext (hlevel.trans hl) (pollsExhausted_eq_false (hcfg ▸ hwithin)), State.takeAnswer, hfaults]
    subst hu
    simp [State.record, countLow, State.setDp, State.takeSample, beginWait, afterFrame, busyAfter, lowPair, cmdEvent, tPoll]
  · rw [busyRound_timeout hnext (hlevel.trans hl) (pollsExhausted_eq_true (hcfg ▸ hb) hle), State.takeAnswer, hfaults]
    subst hu
    simp [State.record, State.raise, State.finish, countLow, State.setDp, State.takeSample, beginWait, afterFrame,
      busyAfter, cmdEvent]

/-- Settles O56: the invariant lets the position read its primitive, which fails at the effect that is answered `fault`. -/
theorem faultEndsTheOperation : Obligations.FaultEndsTheOperation := by
  intro s op ph k n hinv hrst hs hn hok hf
  have hc : isControl ph = false := by
    cases ph
    case check => exact absurd hn (Nat.not_lt_zero n)
    case pixel => exact absurd hn (Nat.not_lt_zero n)
    case done => exact absurd hn (Nat.not_lt_zero n)
    all_goals rfl
  obtain ⟨hr, hp, -, hregs⟩ := seqInv_at_pos (s := s.clearDone) hinv.seq hs
  obtain ⟨i, d, a, hfetch, ha, -, -⟩ := fetchPhase_of_regs (s := s.clearDone) hc hregs
  have hfail := (primitiveAt_of_fetch hc hfetch ha).fault hn hok hf
  obtain ⟨e, htr, he, hstage⟩ := hfail.event
  have same := (attemptOf_spec ha).1
  refine ⟨a.st.raise .transportFault, e, ?_, htr, he, hstage, rfl, rfl, rfl, rfl, same.ls, same.pbb, hfail.busy,
    hfail.faults⟩
  have hrun := (fetch_pos (s := s.clearDone) hs hp).trans hfetch
  rw [step_running hrst hr, runStep_attempt (s := s.clearDone) hs hrun ha hr, hfail.ok]
  rfl

end

section
/-! SUPPORT. The busy-wait of an operation as a run: its low samples, its end by a high one, its end by the bound. -/

namespace Sys2Proof.Machine

open Host

variable {s0 s t : State} {done : Bool} {ev : List Event} {m f k n : Nat} {l : Lines} {ls : Lifecycle} {op : Op} {seq : Seq}
  {dp : Datapath}

/-- An operation in progress, as the start of a run of its own. -/
theorem reached_self (hr : s.run = true) (hs : s.seq = seq) (hd : s.dp = dp) :
    reached s s.opDone [] 0 0 s.lines s.ls seq dp = s := by
  subst hs hd
  simp only [reached, List.append_nil, ← hr]
  rfl

/-- The elements of `n` low samples and their intervals. -/
def lowEvents (n : Nat) : List Event := (List.replicate n lowPair).flatten

/-- One more low sample and its interval. -/
theorem lowEvents_succ (n : Nat) : lowEvents (n + 1) = lowEvents n ++ lowPair := by
  simp [lowEvents, List.replicate_succ']

/-- A low sample, with polls left: it is counted, and the interval follows. -/
theorem reached_low (hn : NoTransportFault s0) (hrst : s0.port.rstN = true) (hp : op.hasPhase .poll = true)
    (hl : (busyAfter m s0.busy).level = .low) (hb : WithinPolls (k + 1) s0.cfg) :
    step (reached s0 done ev m f l ls (.pos op .poll k) { dp with pc := some k }) =
      .next (reached s0 false (ev ++ [.readBusy (.level .low)]) (m + 1) (f + 1) l ls (.pos op .pollDelay (k + 1))
        { dp with pc := some (k + 1) }) := by
  refine reached_poll hn hrst hp hl ?_
  have hb' : pollsExhausted s0.cfg (k + 1) = false := pollsExhausted_eq_false hb
  simp only [advancePoll, advanceLow, reached, readReg, hb']
  rfl

/-- The interval after a low sample. -/
theorem reached_interval (hrst : s0.port.rstN = true) (hp : op.hasPhase .poll = true) :
    step (reached s0 done ev m f l ls (.pos op .pollDelay k) dp) =
      .next (reached s0 false (ev ++ [.delay 100]) m f l ls (.pos op .poll k) dp) := by
  have hdelay : op.hasPhase .pollDelay = true := by cases op <;> simp_all [Op.hasPhase]
  exact reached_delay hrst hdelay rfl fun _ => rfl

/-- `n` low samples, with polls left. -/
theorem runs_lows (hn : NoTransportFault s0) (hrst : s0.port.rstN = true) (hp : op.hasPhase .poll = true)
    (hl : ∀ i, i < n → (busyAfter (m + i) s0.busy).level = .low) (hb : WithinPolls (k + n) s0.cfg) :
    ∃ done', runs (2 * n) (reached s0 done ev m f l ls (.pos op .poll k) { dp with pc := some k }) =
      .next (reached s0 done' (ev ++ lowEvents n) (m + n) (f + n) l ls (.pos op .poll (k + n))
        { dp with pc := some (k + n) }) := by
  induction n with
  | zero => exact ⟨done, by simp [lowEvents, runs_zero]⟩
  | succ n ih =>
    have hb' : WithinPolls (k + n) s0.cfg := fun limit h => Nat.lt_of_succ_lt (hb limit h)
    obtain ⟨done', hruns⟩ := ih (fun i hi => hl i (by omega)) hb'
    have hsample := reached_low (done := done') (ev := ev ++ lowEvents n) (f := f + n) (l := l) (ls := ls) (dp := dp) hn hrst hp
      (hl n (by omega)) hb
    refine ⟨false, (runs_add hruns).trans ((runs_succ hsample).trans ((runs_one (reached_interval hrst hp)).trans ?_))⟩
    rw [lowEvents_succ]
    simp [lowPair, Nat.add_assoc]

/-- There is another step of `INIT_SEQ`. -/
theorem enterInitStep_more {si : Nat} (h : si < s0.cfg.initSeq.length) :
    enterInitStep si (reached s0 done ev m f l ls seq dp) =
      reached s0 done ev m f l ls (.pos .init .initCmd si) { dp with si := some si } := if_pos h

/-- `INIT_SEQ` has been sent. -/
theorem enterInitStep_last {si : Nat} (h : s0.cfg.initSeq.length ≤ si) :
    enterInitStep si (reached s0 done ev m f l ls seq dp) = reached s0 done ev m f l .ready (.pos .init .done 0) dp :=
  if_neg (Nat.not_lt.mpr h)

/-- After its wait `Init` goes on with the next step of `INIT_SEQ`. -/
theorem afterWait_init {si : Nat} (h : dp.si = some si) :
    afterWait .init (endWait (reached s0 done ev m f l ls seq dp)) =
      .ok (enterInitStep (si + 1) (reached s0 done ev m f l ls seq { dp with pc := none })) := by
  cases dp
  cases h
  rfl

/-- A wait that meets `n` low samples and then a high one. -/
theorem runs_wait_high (hn : NoTransportFault s0) (hrst : s0.port.rstN = true) (hp : op.hasPhase .poll = true)
    (hl : LowsThenHigh n (busyAfter m s0.busy)) (hb : WithinPolls n s0.cfg)
    (hafter : afterWait op (endWait (reached s0 false (ev ++ waitEvents n) (m + n + 1) (f + n + 1) l ls (.pos op .poll n)
      { dp with pc := some n })) = .ok t) :
    runs (2 * n + 1) (reached s0 done ev m f l ls (.pos op .poll 0) { dp with pc := some 0 }) = .next t := by
  obtain ⟨hlow, hhigh⟩ := hl
  simp only [busyAfter_add] at hlow hhigh
  obtain ⟨done', hruns⟩ := runs_lows (done := done) (ev := ev) (f := f) (l := l) (ls := ls) (k := 0) (dp := dp) hn hrst hp
    hlow (by rwa [Nat.zero_add])
  rw [runs_add hruns, Nat.zero_add]
  refine runs_one (reached_poll hn hrst hp hhigh ?_)
  have hev : ev ++ lowEvents n ++ [.readBusy (.level .high)] = ev ++ waitEvents n := List.append_assoc _ _ _
  rw [hev]
  exact hafter

/-- The operation begun at `s0` has ended with the status `st`, having appended `ev`, taken `m` samples and `f` answers. -/
def ended (s0 : State) (st : Status) (ev : List Event) (m f : Nat) (l : Lines) (ls : Lifecycle) : State :=
  (reached s0 false ev m f l ls .idle Datapath.empty).finish st

/-- A wait that meets as many low samples as the bound allows. -/
theorem runs_wait_timeout {limit : Nat} (hn : NoTransportFault s0) (hrst : s0.port.rstN = true)
    (hp : op.hasPhase .poll = true) (hpolls : s0.cfg.busyTimeoutPolls = some (limit + 1))
    (hl : ∀ i, i < limit + 1 → (busyAfter (m + i) s0.busy).level = .low) :
    runs (2 * limit + 1) (reached s0 done ev m f l ls (.pos op .poll 0) { dp with pc := some 0 }) =
      .next (ended s0 .timeout (ev ++ lowEvents limit ++ [.readBusy (.level .low)]) (m + limit + 1) (f + limit + 1) l ls) := by
  have hwithin : WithinPolls (0 + limit) s0.cfg := fun b hb => by
    rw [hpolls] at hb
    cases hb
    omega
  obtain ⟨done', hruns⟩ := runs_lows (done := done) (ev := ev) (f := f) (l := l) (ls := ls) (k := 0) (dp := dp) hn hrst hp
    (fun i hi => hl i (by omega)) hwithin
  rw [runs_add hruns, Nat.zero_add]
  refine runs_one (reached_poll hn hrst hp (hl limit (by omega)) ?_)
  have hexhausted : pollsExhausted s0.cfg (limit + 1) = true := pollsExhausted_eq_true hpolls (Nat.le_refl _)
  simp only [advancePoll, advanceLow, reached, readReg, hexhausted]
  rfl

end Sys2Proof.Machine
end

section
/-! SUPPORT. The statements of 42_busy_wait.md about a whole wait. -/

open Sys2Proof Sys2Proof.Machine

/-- Settles O32, by the run of the wait and the move that follows its high sample. -/
theorem waitEndsAtTheFirstHighSample : Obligations.WaitEndsAtTheFirstHighSample := by
  intro s op si n hrst hr hs hp hsi hpc hn hl hb
  have hdp : s.dp = { s.dp with pc := some 0 } := by rw [← hpc]
  have hruns {t : State} := runs_wait_high (t := t) (done := s.opDone) (ev := []) (m := 0) (f := 0) (l := s.lines)
    (ls := s.ls) (dp := s.dp) hn hrst hp hl hb
  rw [reached_self hr hs hdp] at hruns
  simp only [List.nil_append, Nat.zero_add] at hruns
  cases op
  case reset => exact absurd hp (by decide)
  case convert => exact absurd hp (by decide)
  case init =>
    refine ⟨_, hruns (afterWait_init (si := si) (hsi rfl)), ?_⟩
    by_cases hlast : si + 1 < s.cfg.initSeq.length
    · rw [enterInitStep_more hlast]
      simp [reached, hlast]
    · rw [enterInitStep_last (Nat.not_lt.mp hlast)]
      simp [reached, hlast]
  all_goals exact ⟨_, hruns rfl, by simp [reached]⟩

/-- Settles O33: the steps come in pairs, a low sample and its interval. -/
theorem lowLineHangsForever : Obligations.LowLineHangsForever := by
  intro s op n hrst hr hs hp hpc hn hlow hpolls k
  have hdp : s.dp = { s.dp with pc := some n } := by rw [← hpc]
  have hwithin (b : Nat) : WithinPolls b s.cfg := fun limit h => by rw [hpolls] at h; cases h
  obtain ⟨done', hruns⟩ := runs_lows (done := s.opDone) (ev := []) (m := 0) (f := 0) (l := s.lines) (ls := s.ls) (k := n)
    (n := k / 2) (dp := s.dp) hn hrst hp (fun i _ => hlow _) (hwithin _)
  rw [reached_self hr hs hdp] at hruns
  obtain heven | hodd := Nat.mod_two_eq_zero_or_one k
  · rw [show 2 * (k / 2) = k by omega] at hruns
    exact ⟨_, hruns, by simp [reached, lowEvents, heven]⟩
  · have hsample := reached_low (done := done') (ev := [] ++ lowEvents (k / 2)) (f := 0 + k / 2) (l := s.lines) (ls := s.ls)
      (dp := s.dp) hn hrst hp (hlow (0 + k / 2)) (hwithin (n + k / 2 + 1))
    have hall := (runs_add hruns).trans (runs_one hsample)
    rw [show 2 * (k / 2) + 1 = k by omega] at hall
    exact ⟨_, hall, by simp [reached, lowEvents, hodd]⟩

/-- Settles O34, by the run of a wait that reaches its bound. -/
theorem timeoutAfterTheBound : Obligations.TimeoutAfterTheBound := by
  intro s op limit hrst hr hs hp hpc hn hpos hpolls hl
  obtain ⟨limit, rfl⟩ := Nat.exists_eq_add_one_of_ne_zero (Nat.ne_of_gt hpos)
  have hdp : s.dp = { s.dp with pc := some 0 } := by rw [← hpc]
  have hruns := runs_wait_timeout (done := s.opDone) (ev := []) (m := 0) (f := 0) (l := s.lines) (ls := s.ls) (dp := s.dp) hn
    hrst hp hpolls fun i hi => by rw [Nat.zero_add]; exact hl i hi
  rw [reached_self hr hs hdp] at hruns
  exact ⟨_, hruns, rfl, rfl, rfl, rfl, rfl, rfl, rfl, rfl, by simp [ended, reached, lowEvents]⟩

end

section
/-! SUPPORT. The start, the reset pulse and the completion of an operation, as runs. -/

namespace Sys2Proof.Machine

open Host

variable {s0 s t u : State} {done : Bool} {ev : List Event} {m f k n : Nat} {l : Lines} {ls : Lifecycle} {op : Op}
  {seq : Seq} {dp : Datapath} {level : Level} {ms : Nat}

/-- `t` comes some number of steps after `s`. -/
def Reaches (s t : State) : Prop := ∃ k, runs k s = .next t

theorem Reaches.of_runs (h : runs k s = .next t) : Reaches s t := ⟨k, h⟩

theorem Reaches.refl (s : State) : Reaches s s := ⟨0, rfl⟩

theorem Reaches.trans (h : Reaches s t) (h' : Reaches t u) : Reaches s u := by
  obtain ⟨k, hk⟩ := h
  obtain ⟨m, hm⟩ := h'
  exact ⟨k + m, (runs_add hk).trans hm⟩

/-- A step, and then some number of steps. -/
theorem Reaches.step (h : step s = .next t) (h' : Reaches t u) : Reaches s u := (Reaches.of_runs (runs_one h)).trans h'

/-! ### Acceptance and the state check -/

/-- An operation with a state check begins with it. -/
theorem firstPhase_of_check (h : op.hasPhase .check = true) : op.firstPhase = .check := by
  cases op
  case reset => exact absurd h (by decide)
  case convert => exact absurd h (by decide)
  all_goals rfl

/-- An operation that is accepted in a valid state passes its state check. -/
theorem step_accept (hrst : s.port.rstN = true) (hp : op.hasPhase .check = true) (hv : op.validIn s.ls = true) :
    step (accept op s) = .next (reached (accept op s) false [] 0 0 s.lines s.ls
      (.pos op op.afterStateCheck.1 op.afterStateCheck.2) s.dp) := by
  have hseq : (accept op s).seq = .pos op .check 0 := by rw [← firstPhase_of_check hp]; rfl
  rw [step_stateCheck_valid (s := accept op s) hrst rfl hseq hp hv]
  simp only [reached, List.append_nil]
  rfl

/-! ### The reset pulse -/

/-- Fewer answers than are known to be `ok`. -/
theorem nextOk_mono (h : NextOk n s) (hkn : k ≤ n) : NextOk k s :=
  fun a ha => h a (List.take_subset_take_left _ hkn ha)

/-- A drive of the reset pulse. -/
theorem reached_drive (hrst : s0.port.rstN = true) (hok : NextOk (f + 1) s0) (hp : op.hasPhase .pulse = true)
    (hk : pulsePrimitive k = .ok (.setLine .rst level)) (hlt : k + 1 < 6) :
    step (reached s0 done ev m f l ls (.pos op .pulse k) dp) =
      .next (reached s0 false (ev ++ [.setLine .rst level .ok]) m (f + 1) { l with rst := .driven level } ls
        (.pos op .pulse (k + 1)) dp) := by
  have hnext : (reached s0 false ev m f l ls (.pos op .pulse k) dp).faultNext = false :=
    faultNext_eq_false (nextOk_drop hok rfl)
  have ha : attemptOf (.setLine .rst level) (reached s0 false ev m f l ls (.pos op .pulse k) dp) =
      some ⟨true, reached s0 false (ev ++ [.setLine .rst level .ok]) m (f + 1) { l with rst := .driven level } ls
        (.pos op .pulse k) dp⟩ := by
    simp only [attemptOf, Line.isOutput, if_true, setLine_ok hnext]
    simp [reached, State.record, State.driveLine, State.takeAnswer, Lines.drive]
  rw [reached_step hrst hp (congrArg (inState _) hk) ha]
  exact congrArg Outcome.next (if_pos hlt)

/-- A dwell of the reset pulse, and the move after it. -/
theorem reached_dwell (hrst : s0.port.rstN = true) (hp : op.hasPhase .pulse = true)
    (hk : pulsePrimitive k = .ok (.delay ms)) :
    step (reached s0 done ev m f l ls (.pos op .pulse k) dp) =
      .next (advancePulse op k (reached s0 false (ev ++ [.delay ms]) m f l ls (.pos op .pulse k) dp)) :=
  reached_delay hrst hp (congrArg (inState _) hk) fun _ => rfl

/-- The pulse goes on. -/
theorem advancePulse_more (hlt : k + 1 < 6) :
    advancePulse op k (reached s0 done ev m f l ls seq dp) = reached s0 done ev m f l ls (.pos op .pulse (k + 1)) dp :=
  if_pos hlt

/-- An entry of the pattern: a drive and its dwell. -/
theorem runs_pulseEntry (hrst : s0.port.rstN = true) (hok : NextOk (f + 1) s0) (hp : op.hasPhase .pulse = true)
    (hk : pulsePrimitive k = .ok (.setLine .rst level)) (hk' : pulsePrimitive (k + 1) = .ok (.delay ms)) (hlt : k + 1 < 6) :
    runs 2 (reached s0 done ev m f l ls (.pos op .pulse k) dp) =
      .next (advancePulse op (k + 1) (reached s0 false (ev ++ [.setLine .rst level .ok, .delay ms]) m (f + 1)
        { l with rst := .driven level } ls (.pos op .pulse (k + 1)) dp)) := by
  rw [runs_succ (reached_drive hrst hok hp hk hlt), runs_one (reached_dwell hrst hp hk'), List.append_assoc]
  rfl

/-- The reset pulse: three drives, each with its dwell (40_transport_primitives.md R113). -/
theorem runs_pulse (hrst : s0.port.rstN = true) (hok : NextOk (f + 3) s0) (hp : op.hasPhase .pulse = true) :
    runs 6 (reached s0 done ev m f l ls (.pos op .pulse 0) dp) =
      .next (afterPulse op (reached s0 false (ev ++ pulseEvents) m (f + 3) { l with rst := .driven .high } ls
        (.pos op .pulse 5) dp)) := by
  have hok (i : Nat) (hi : i < 3) : NextOk (f + i + 1) s0 := nextOk_mono hok (by omega)
  show runs (2 + (2 + 2)) _ = _
  rw [runs_add (runs_pulseEntry hrst (hok 0 (by decide)) hp rfl rfl (by decide)), advancePulse_more (by decide),
    runs_add (runs_pulseEntry hrst (hok 1 (by decide)) hp rfl rfl (by decide)), advancePulse_more (by decide),
    runs_pulseEntry hrst (hok 2 (by decide)) hp rfl rfl (by decide), List.append_assoc, List.append_assoc]
  rfl

/-- After the pulse of `Reset` only its completion is left. -/
theorem afterPulse_reset :
    afterPulse .reset (reached s0 done ev m f l ls seq dp) = reached s0 done ev m f l .unpowered (.pos .reset .done 0) dp :=
  rfl

/-- After its wait `Sleep` goes on with deep sleep. -/
theorem afterWait_sleep :
    afterWait .sleep (endWait (reached s0 done ev m f l ls seq dp)) =
      .ok (reached s0 done ev m f l ls (.pos .sleep .deepSleepCmd 0) { dp with pc := none }) := rfl

/-! ### Completion -/

/-- The completion of an operation in progress. -/
theorem step_reached_done (hrst : s0.port.rstN = true) (hp : op.hasPhase .done = true) :
    step (reached s0 done ev m f l ls (.pos op .done k) dp) = .next (ended s0 .ok ev m f l ls) :=
  step_done (s := reached s0 done ev m f l ls (.pos op .done k) dp) hrst rfl rfl hp

/-- What an operation leaves at its end, in the terms of the spec. -/
theorem ended_completed (op : Op) (s : State) (st : Status) (ev : List Event) (m f : Nat) (l : Lines) (ls : Lifecycle) :
    Completed s (ended (accept op s) st ev m f l ls) ls st ev :=
  ⟨rfl, rfl, rfl, rfl, rfl, rfl, rfl, rfl, rfl, rfl, rfl⟩

/-- `Reset`, from its acceptance to its completion. -/
theorem runs_reset (hrst : s.port.rstN = true) (hok : NextOk 3 s) :
    runs 7 (accept .reset s) = .next (ended (accept .reset s) .ok pulseEvents 0 3 { s.lines with rst := .driven .high }
      .unpowered) := by
  have hpulse := runs_pulse (s0 := accept .reset s) (done := s.opDone) (ev := []) (m := 0) (f := 0) (l := s.lines) (ls := s.ls)
    (op := .reset) (dp := s.dp) hrst hok rfl
  rw [show reached (accept .reset s) s.opDone [] 0 0 s.lines s.ls (.pos .reset .pulse 0) s.dp = accept .reset s from
    reached_self (s := accept .reset s) rfl rfl rfl, afterPulse_reset] at hpulse
  exact (runs_add hpulse).trans (runs_one (step_reached_done hrst rfl))

/-! ### `Sleep` -/

/-- `Sleep` in Ready comes to its wait, having sent power-off. -/
theorem sleep_reaches_wait (hrst : s.port.rstN = true) (hn : NoTransportFault s) (hls : s.ls = .ready) :
    Reaches (accept .sleep s) (reached (accept .sleep s) false [cmdEvent s.cfg.codes.powerOff] 0 4
      (frameLines s.cfg .command s.lines) .ready (.pos .sleep .poll 0) { s.dp with pc := some 0 }) := by
  have hstart := step_accept (op := .sleep) hrst rfl (by rw [hls]; rfl)
  rw [hls] at hstart
  refine .step hstart (.step (reached_frame hn hrst rfl rfl rfl fun _ => rfl) (.refl _))

/-- After the wait `Sleep` sends deep sleep and its argument, and completes. -/
theorem sleep_ends (hrst : s0.port.rstN = true) (hn : NoTransportFault s0) :
    Reaches (reached s0 done ev m f l ls (.pos .sleep .deepSleepCmd 0) dp)
      (ended s0 .ok (ev ++ [cmdEvent s0.cfg.codes.deepSleep, dataEvent s0.cfg.argDeepSleep]) m (f + 8)
        (frameLines s0.cfg .data l) .sleeping) := by
  have hcmd : step (reached s0 done ev m f l ls (.pos .sleep .deepSleepCmd 0) dp) =
      .next (reached s0 false (ev ++ [cmdEvent s0.cfg.codes.deepSleep]) m (f + 4) (frameLines s0.cfg .command l) ls
        (.pos .sleep .deepSleepArg 0) dp) := reached_frame hn hrst rfl rfl rfl fun _ => rfl
  have harg : step (reached s0 false (ev ++ [cmdEvent s0.cfg.codes.deepSleep]) m (f + 4) (frameLines s0.cfg .command l) ls
      (.pos .sleep .deepSleepArg 0) dp) =
      .next (reached s0 false (ev ++ [cmdEvent s0.cfg.codes.deepSleep] ++ [dataEvent s0.cfg.argDeepSleep]) m (f + 8)
        (frameLines s0.cfg .data l) .sleeping (.pos .sleep .done 0) dp) := reached_frame hn hrst rfl rfl rfl fun _ => rfl
  rw [List.append_assoc] at harg
  exact .step hcmd (.step harg (.step (step_reached_done hrst rfl) (.refl _)))

/-- `Sleep` in Ready, the panel answering `n` low samples and then a high one. -/
theorem sleep_completes (hrst : s.port.rstN = true) (hn : NoTransportFault s) (hls : s.ls = .ready)
    (hl : LowsThenHigh n s.busy) (hb : WithinPolls n s.cfg) :
    Reaches (accept .sleep s) (ended (accept .sleep s) .ok
      (cmdEvent s.cfg.codes.powerOff :: waitEvents n ++ [cmdEvent s.cfg.codes.deepSleep, dataEvent s.cfg.argDeepSleep])
      (n + 1) (4 + n + 1 + 8) (frameLines s.cfg .data s.lines) .sleeping) := by
  have hwait := runs_wait_high (s0 := accept .sleep s) (done := false) (ev := [cmdEvent s.cfg.codes.powerOff]) (m := 0) (f := 4)
    (l := frameLines s.cfg .command s.lines) (ls := .ready) (dp := s.dp) hn hrst rfl hl hb afterWait_sleep
  rw [Nat.zero_add] at hwait
  exact (sleep_reaches_wait hrst hn hls).trans ((Reaches.of_runs hwait).trans (sleep_ends (s0 := accept .sleep s) hrst hn))

end Sys2Proof.Machine
end

section
/-! SUPPORT. The statements of 41_protocol_driver.md about `Reset` and `Sleep`. -/

open Sys2Proof Sys2Proof.Machine

/-- Settles O35, by the six steps of the pulse and the completion. -/
theorem resetPulsesTheLine : Obligations.ResetPulsesTheLine := by
  intro s ⟨hrst, hr⟩ hok
  exact ⟨_, _, exec_instr_idle .reset hr, runs_reset hrst hok, ended_completed .., rfl, rfl, rfl⟩

/-- Settles O40, by the run of `Sleep`: its two commands, with its wait between them. -/
theorem sleepPowersOffThenSleeps : Obligations.SleepPowersOffThenSleeps := by
  intro s n ⟨hrst, hr⟩ hls hn hl hb
  obtain ⟨k, hruns⟩ := sleep_completes hrst hn hls hl hb
  exact ⟨_, k, _, exec_instr_idle .sleep hr, hruns, ended_completed .., rfl, rfl, rfl⟩

end

section
/-! SUPPORT. The wire frame of `Clear` and `Display` as a run, and the refresh that follows it. -/

namespace Sys2Proof.Machine

open Host

variable {s0 s t u : State} {done : Bool} {ev : List Event} {m f k n : Nat} {l : Lines} {ls : Lifecycle} {op : Op}
  {seq : Seq} {dp : Datapath}

/-- Byte `n` of the wire frame that an operation sends of the buffer `b` (41_protocol_driver.md R134, R135). -/
def frameByte (op : Op) (b : List Cell) (n : Nat) : Byte :=
  if op = .display then wireByte (~~~(pbbByte b (n / 4))) (n % 4) else 0x33#8

/-- The registers at byte `n` of the wire frame: BI and PP, and in `Display` INV, once the input byte is taken. -/
structure StreamRegs (op : Op) (b : List Cell) (n : Nat) (dp : Datapath) : Prop where
  bi : dp.bi = some (n / 4)
  pp : dp.pp = some (n % 4)
  inv : op = .display → 0 < n % 4 → dp.inv = some (~~~(pbbByte b (n / 4)))

/-- At a position of the wire frame its byte is sent as data; `Display` has INV loaded then. -/
theorem fetchPhase_stream (hregs : StreamRegs op s0.pbb n dp) (hn : n < 122880) :
    ∃ i dp', fetchPhase op .stream k (reached s0 done ev m f l ls seq dp) = .ok (i, reached s0 done ev m f l ls seq dp') ∧
      (∀ s, attemptOf i s = some (transmitByte .data (frameByte op s0.pbb n) s)) ∧ dp'.bi = dp.bi ∧ dp'.pp = dp.pp ∧
      (op = .display → dp'.inv = some (~~~(pbbByte s0.pbb (n / 4)))) := by
  by_cases hop : op = .display
  · subst hop
    obtain ⟨i, hi, hdec⟩ := displayPair_of_regs (s := reached s0 done ev m f l ls seq dp) hregs.bi hregs.pp
      (by rw [bufSz_eq]; omega) (hregs.inv rfl)
    exact ⟨i, _, hi, attemptOf_decodeWire hdec, rfl, rfl, fun _ => rfl⟩
  · have hbyte : frameByte op s0.pbb n = 0x33#8 := if_neg hop
    exact ⟨.wire33, dp, if_neg hop, fun _ => by rw [hbyte]; rfl, rfl, rfl, fun h => absurd h hop⟩

/-- The move after a byte of the wire frame that is not the last. -/
theorem advanceStream_more (hbi : dp.bi = some (n / 4)) (hpp : dp.pp = some (n % 4)) (hn : n + 1 < 122880)
    (hinv : op = .display → dp.inv = some (~~~(pbbByte s0.pbb (n / 4)))) :
    ∃ dp', advanceStream op n (reached s0 done ev m f l ls seq dp) =
      .ok (reached s0 done ev m f l ls (.pos op .stream (n + 1)) dp') ∧ StreamRegs op s0.pbb (n + 1) dp' := by
  simp only [advanceStream, reached, hbi, hpp, readReg]
  by_cases hpair : n % 4 < 3
  · have hq : n / 4 = (n + 1) / 4 := by omega
    have hr : n % 4 + 1 = (n + 1) % 4 := by omega
    rw [if_pos hpair]
    exact ⟨_, rfl, congrArg some hq, congrArg some hr, fun hop _ => by rw [← hq]; exact hinv hop⟩
  · have hq : n / 4 + 1 = (n + 1) / 4 := by omega
    have hr : 0 = (n + 1) % 4 := by omega
    rw [if_neg hpair, if_pos (by rw [bufSz_eq]; omega)]
    exact ⟨_, rfl, congrArg some hq, congrArg some hr, fun _ hpos => absurd hpos (by omega)⟩

/-- After the last byte of the wire frame comes the refresh. -/
theorem advanceStream_last (hbi : dp.bi = some 30719) (hpp : dp.pp = some 3) :
    advanceStream op k (reached s0 done ev m f l ls seq dp) = .ok (reached s0 done ev m f l ls (.pos op .refreshCmd 0) dp) := by
  simp only [advanceStream, reached, hbi, hpp, readReg]
  rfl

/-- A byte of the wire frame that is not the last. -/
theorem step_stream (hn : NoTransportFault s0) (hrst : s0.port.rstN = true) (hp : op.hasPhase .stream = true)
    (hregs : StreamRegs op s0.pbb n dp) (hlt : n + 1 < 122880) :
    ∃ dp', step (reached s0 done ev m f l ls (.pos op .stream n) dp) =
      .next (reached s0 false (ev ++ [dataEvent (frameByte op s0.pbb n)]) m (f + 4) (frameLines s0.cfg .data l) ls
        (.pos op .stream (n + 1)) dp') ∧ StreamRegs op s0.pbb (n + 1) dp' := by
  obtain ⟨i, d, hf, ha, hbi, hpp, hinv⟩ := fetchPhase_stream (k := n) (done := false) (ev := ev) (m := m) (f := f) (l := l)
    (ls := ls) (seq := .pos op .stream n) hregs (by omega)
  obtain ⟨dp', hadv, hregs'⟩ := advanceStream_more (done := false) (ev := ev ++ [dataEvent (frameByte op s0.pbb n)]) (m := m)
    (f := f + 4) (l := frameLines s0.cfg .data l) (ls := ls) (seq := .pos op .stream n) (hbi.trans hregs.bi)
    (hpp.trans hregs.pp) hlt hinv
  exact ⟨dp', reached_frame hn hrst hp hf (ha _) fun _ => hadv, hregs'⟩

/-- The last byte of the wire frame. -/
theorem step_streamLast (hn : NoTransportFault s0) (hrst : s0.port.rstN = true) (hp : op.hasPhase .stream = true)
    (hregs : StreamRegs op s0.pbb 122879 dp) :
    ∃ dp', step (reached s0 done ev m f l ls (.pos op .stream 122879) dp) =
      .next (reached s0 false (ev ++ [dataEvent (frameByte op s0.pbb 122879)]) m (f + 4) (frameLines s0.cfg .data l) ls
        (.pos op .refreshCmd 0) dp') := by
  obtain ⟨i, d, hf, ha, hbi, hpp, -⟩ := fetchPhase_stream (k := 122879) (done := false) (ev := ev) (m := m) (f := f) (l := l)
    (ls := ls) (seq := .pos op .stream 122879) hregs (by omega)
  exact ⟨d, reached_frame hn hrst hp hf (ha _) fun _ => advanceStream_last (hbi.trans hregs.bi) (hpp.trans hregs.pp)⟩

/-- The elements of the first `n` bytes of the wire frame. -/
def frameEvents (op : Op) (b : List Cell) (n : Nat) : List Event := (List.range n).map fun i => dataEvent (frameByte op b i)

/-- One more byte of the wire frame. -/
theorem frameEvents_succ (op : Op) (b : List Cell) (n : Nat) :
    frameEvents op b (n + 1) = frameEvents op b n ++ [dataEvent (frameByte op b n)] := by
  simp [frameEvents, List.range_succ]

/-- The first `n` bytes of the wire frame, but for the last. -/
theorem runs_stream (hn : NoTransportFault s0) (hrst : s0.port.rstN = true) (hp : op.hasPhase .stream = true)
    (hregs : StreamRegs op s0.pbb 0 dp) (hlt : n < 122880) :
    ∃ done' l' dp', frameLines s0.cfg .data l' = frameLines s0.cfg .data l ∧ StreamRegs op s0.pbb n dp' ∧
      Reaches (reached s0 done ev m f l ls (.pos op .stream 0) dp)
        (reached s0 done' (ev ++ frameEvents op s0.pbb n) m (f + 4 * n) l' ls (.pos op .stream n) dp') := by
  induction n with
  | zero => exact ⟨done, l, dp, rfl, hregs, by simpa [frameEvents] using .refl _⟩
  | succ n ih =>
    obtain ⟨done', l', dp', hl', hregs', hreach⟩ := ih (by omega)
    obtain ⟨dp'', hstep, hregs''⟩ := step_stream (done := done') (ev := ev ++ frameEvents op s0.pbb n) (m := m) (f := f + 4 * n)
      (l := l') (ls := ls) hn hrst hp hregs' hlt
    rw [List.append_assoc, ← frameEvents_succ] at hstep
    exact ⟨false, frameLines s0.cfg .data l', dp'', hl', hregs'', hreach.trans (Reaches.of_runs (runs_one hstep))⟩

/-- The whole wire frame. -/
theorem reaches_refresh (hn : NoTransportFault s0) (hrst : s0.port.rstN = true) (hp : op.hasPhase .stream = true)
    (hregs : StreamRegs op s0.pbb 0 dp) :
    ∃ dp', Reaches (reached s0 done ev m f l ls (.pos op .stream 0) dp)
      (reached s0 false (ev ++ frameEvents op s0.pbb 122880) m (f + 4 * 122880) (frameLines s0.cfg .data l) ls
        (.pos op .refreshCmd 0) dp') := by
  obtain ⟨done', l', dp', hl', hregs', hreach⟩ := runs_stream (done := done) (ev := ev) (m := m) (f := f) (l := l) (ls := ls) hn
    hrst hp hregs (by omega : 122879 < 122880)
  obtain ⟨d, hstep⟩ := step_streamLast (done := done') (ev := ev ++ frameEvents op s0.pbb 122879) (m := m)
    (f := f + 4 * 122879) (l := l') (ls := ls) hn hrst hp hregs'
  rw [List.append_assoc, ← frameEvents_succ, hl'] at hstep
  exact ⟨d, hreach.trans (Reaches.of_runs (runs_one hstep))⟩

/-- The wire frame of `Display` is the encoded buffer. -/
theorem frameEvents_display (b : List Cell) : frameEvents .display b 122880 = wireEvents (encodeBuffer b) := by
  have hbytes : (List.range 122880).map (frameByte .display b) = encodeBuffer b := by
    refine List.ext_getElem? fun i => ?_
    by_cases hi : i < 122880
    · have hget := wireStream_getElem? b (n := 30720) (q := i / 4) (r := i % 4) 0 (by omega) (by omega)
      rw [show 4 * (i / 4) + i % 4 = i by omega, Nat.zero_add] at hget
      rw [List.getElem?_map, List.getElem?_range hi]
      exact hget.symm
    · have hlen : (encodeBuffer b).length = 122880 := (encodeBuffer_length b).trans (by rw [bufSz_eq])
      rw [List.getElem?_eq_none (by simpa using hi), List.getElem?_eq_none (by omega)]
  rw [wireEvents, ← hbytes, List.map_map]
  rfl

/-- The wire frame of `Clear` is white. -/
theorem frameEvents_clear (b : List Cell) : frameEvents .clear b 122880 = List.replicate 122880 (dataEvent 0x33#8) := by
  have hconst : (fun i => dataEvent (frameByte .clear b i)) = Function.const Nat (dataEvent 0x33#8) := rfl
  rw [frameEvents, hconst, List.map_const, List.length_range]

/-! ### `Clear` and `Display` -/

/-- What `Clear` and `Display` append before their wait. -/
def beforeWait (op : Op) (s : State) : List Event :=
  cmdEvent s.cfg.codes.dataStartTransmission :: frameEvents op s.pbb 122880 ++
    [cmdEvent s.cfg.codes.displayRefresh, .delay s.cfg.tRefreshDelay]

/-- The elements before the wait, in the order they are appended. -/
theorem beforeWait_eq (op : Op) (s : State) :
    [cmdEvent s.cfg.codes.dataStartTransmission] ++ frameEvents op s.pbb 122880 ++ [cmdEvent s.cfg.codes.displayRefresh] ++
      [.delay s.cfg.tRefreshDelay] = beforeWait op s := by
  rw [beforeWait]
  generalize frameEvents op s.pbb 122880 = frame
  simp

/-- All that `Clear` and `Display` append. -/
theorem beforeWait_append (op : Op) (s : State) (n : Nat) :
    beforeWait op s ++ waitEvents n = cmdEvent s.cfg.codes.dataStartTransmission ::
      frameEvents op s.pbb 122880 ++ refreshEvents s.cfg n := by
  rw [beforeWait, refreshEvents, List.append_assoc]

/-- From the data-start command to the wait. -/
theorem startCmd_reaches_wait (hn : NoTransportFault s0) (hrst : s0.port.rstN = true) (hp : op.hasPhase .stream = true) :
    ∃ dp' : Datapath, Reaches (reached s0 done [] 0 0 l ls (.pos op .startCmd 0) dp)
      (reached s0 false (beforeWait op s0) 0 (4 + 4 * 122880 + 4) (frameLines s0.cfg .command l) ls (.pos op .poll 0)
        { dp' with pc := some 0 }) := by
  have hphases : op.hasPhase .startCmd = true ∧ op.hasPhase .refreshCmd = true ∧ op.hasPhase .refreshDelay = true := by
    cases op <;> simp_all [Op.hasPhase]
  obtain ⟨hstart, hcmd, hdelay⟩ := hphases
  have hfirst : step (reached s0 done [] 0 0 l ls (.pos op .startCmd 0) dp) =
      .next (reached s0 false [cmdEvent s0.cfg.codes.dataStartTransmission] 0 4 (frameLines s0.cfg .command l) ls
        (.pos op .stream 0) { dp with bi := some 0, pp := some 0 }) := reached_frame hn hrst hstart rfl rfl fun _ => rfl
  obtain ⟨d, hframe⟩ := reaches_refresh (done := false) (ev := [cmdEvent s0.cfg.codes.dataStartTransmission]) (m := 0) (f := 4)
    (l := frameLines s0.cfg .command l) (ls := ls) (dp := { dp with bi := some 0, pp := some 0 }) hn hrst hp
    ⟨rfl, rfl, fun _ h => absurd h (by decide)⟩
  have hrefresh : step (reached s0 false ([cmdEvent s0.cfg.codes.dataStartTransmission] ++ frameEvents op s0.pbb 122880) 0
      (4 + 4 * 122880) (frameLines s0.cfg .data (frameLines s0.cfg .command l)) ls (.pos op .refreshCmd 0) d) =
      .next (reached s0 false ([cmdEvent s0.cfg.codes.dataStartTransmission] ++ frameEvents op s0.pbb 122880 ++
        [cmdEvent s0.cfg.codes.displayRefresh]) 0 (4 + 4 * 122880 + 4) (frameLines s0.cfg .command l) ls
        (.pos op .refreshDelay 0) d) := reached_frame hn hrst hcmd rfl rfl fun _ => rfl
  have hpause : step (reached s0 false ([cmdEvent s0.cfg.codes.dataStartTransmission] ++ frameEvents op s0.pbb 122880 ++
      [cmdEvent s0.cfg.codes.displayRefresh]) 0 (4 + 4 * 122880 + 4) (frameLines s0.cfg .command l) ls
      (.pos op .refreshDelay 0) d) =
      .next (reached s0 false ([cmdEvent s0.cfg.codes.dataStartTransmission] ++ frameEvents op s0.pbb 122880 ++
        [cmdEvent s0.cfg.codes.displayRefresh] ++ [.delay s0.cfg.tRefreshDelay]) 0 (4 + 4 * 122880 + 4)
        (frameLines s0.cfg .command l) ls (.pos op .poll 0) { d with pc := some 0 }) :=
    reached_delay hrst hdelay rfl fun _ => rfl
  rw [beforeWait_eq] at hpause
  exact ⟨d, .step hfirst (hframe.trans (.step hrefresh (.step hpause (.refl _))))⟩

/-- `Clear` and `Display` in Ready come to their wait; `Display` needs a buffer of the right length. -/
theorem reaches_wait (hn : NoTransportFault s) (hrst : s.port.rstN = true) (hls : s.ls = .ready)
    (hop : op = .clear ∨ op = .display ∧ s.port.bufLen = 30720) :
    ∃ dp : Datapath, Reaches (accept op s) (reached (accept op s) false (beforeWait op s) 0 (4 + 4 * 122880 + 4)
      (frameLines s.cfg .command s.lines) .ready (.pos op .poll 0) { dp with pc := some 0 }) := by
  obtain rfl | ⟨rfl, hlen⟩ := hop
  · have hcheck := step_accept (op := .clear) hrst rfl (by rw [hls]; rfl)
    rw [hls] at hcheck
    obtain ⟨d, hreach⟩ := startCmd_reaches_wait (s0 := accept .clear s) (op := .clear) (done := false) (l := s.lines)
      (ls := .ready) (dp := s.dp) hn hrst rfl
    exact ⟨d, .step hcheck hreach⟩
  · have hcheck := step_accept (op := .display) hrst rfl (by rw [hls]; rfl)
    have hlength := step_lengthCheck_valid (s := reached (accept .display s) false [] 0 0 s.lines s.ls (.pos .display .check 1)
      s.dp) hrst rfl rfl hlen
    obtain ⟨d, hreach⟩ := startCmd_reaches_wait (s0 := accept .display s) (op := .display) (done := false) (l := s.lines)
      (ls := .ready) (dp := s.dp) hn hrst rfl
    rw [hls] at hcheck hlength
    exact ⟨d, .step hcheck (.step hlength hreach)⟩

/-- After their wait `Clear` and `Display` have only their completion left. -/
theorem afterWait_refresh (hp : op.hasPhase .stream = true) :
    afterWait op (endWait (reached s0 done ev m f l ls seq dp)) =
      .ok (reached s0 done ev m f l ls (.pos op .done 0) { dp with pc := none }) := by
  cases op
  case clear => rfl
  case display => rfl
  all_goals exact absurd hp (by decide)

/-- `Clear` and `Display` in Ready, the panel answering `n` low samples and then a high one. -/
theorem refresh_completes (hn : NoTransportFault s) (hrst : s.port.rstN = true) (hls : s.ls = .ready)
    (hop : op = .clear ∨ op = .display ∧ s.port.bufLen = 30720) (hl : LowsThenHigh n s.busy) (hb : WithinPolls n s.cfg) :
    Reaches (accept op s) (ended (accept op s) .ok (cmdEvent s.cfg.codes.dataStartTransmission ::
      frameEvents op s.pbb 122880 ++ refreshEvents s.cfg n) (n + 1) (4 + 4 * 122880 + 4 + n + 1)
      (frameLines s.cfg .command s.lines) .ready) := by
  have hphases : op.hasPhase .stream = true ∧ op.hasPhase .poll = true ∧ op.hasPhase .done = true := by
    obtain rfl | ⟨rfl, -⟩ := hop <;> exact ⟨rfl, rfl, rfl⟩
  obtain ⟨hstream, hpoll, hdone⟩ := hphases
  obtain ⟨d, hreach⟩ := reaches_wait hn hrst hls hop
  have hwait := runs_wait_high (s0 := accept op s) (done := false) (ev := beforeWait op s) (m := 0) (f := 4 + 4 * 122880 + 4)
    (l := frameLines s.cfg .command s.lines) (ls := .ready) (dp := d) hn hrst hpoll hl hb (afterWait_refresh hstream)
  rw [Nat.zero_add, beforeWait_append] at hwait
  exact hreach.trans ((Reaches.of_runs hwait).trans (.step (step_reached_done (s0 := accept op s) hrst hdone) (.refl _)))

end Sys2Proof.Machine
end

section
/-! SUPPORT. The statements of 41_protocol_driver.md about `Clear`, and about it and `Display` of a white buffer. -/

open Sys2Proof Sys2Proof.Machine

/-- Settles O37, by the run of `Clear`, whose wire frame is white. -/
theorem clearSendsTheWhiteFrame : Obligations.ClearSendsTheWhiteFrame := by
  intro s n ⟨hrst, hr⟩ hls hn hl hb
  obtain ⟨k, hruns⟩ := refresh_completes hn hrst hls (.inl rfl) hl hb
  rw [frameEvents_clear] at hruns
  exact ⟨_, k, _, exec_instr_idle .clear hr, hruns, ended_completed .., rfl, rfl, rfl⟩

/-- Settles O39: the two runs end alike but for the wire frame, and the frame of a white buffer is white. -/
theorem clearIsDisplayOfTheWhiteBuffer : Obligations.ClearIsDisplayOfTheWhiteBuffer := by
  intro s n ⟨hrst, hr⟩ hls hlen hwhite hn hl hb
  have hframe : frameEvents .display s.pbb 122880 = frameEvents .clear s.pbb 122880 := by
    rw [frameEvents_display, frameEvents_clear, encodeBuffer_of_uniform expandPairs_white hwhite, wireEvents,
      List.map_replicate]
  obtain ⟨k, hclear⟩ := refresh_completes hn hrst hls (.inl rfl) hl hb
  obtain ⟨m, hdisplay⟩ := refresh_completes hn hrst hls (.inr ⟨rfl, hlen⟩) hl hb
  rw [hframe] at hdisplay
  exact ⟨_, _, k, m, _, exec_instr_idle .clear hr, exec_instr_idle .display hr, hclear, hdisplay, rfl⟩

end

section
/-! SUPPORT. When a run is the whole of an operation, and a host that acts while `Display` runs. -/

namespace Sys2Proof.Machine

open Host

variable {s t u v : State} {p : Port} {g : Image} {k i j : Nat} {op : Op} {ph : Phase}

/-! ### The run of one operation -/

/-- The first steps of a run are a run. -/
theorem runs_split (h : runs (j + i) s = .next t) : ∃ v, runs j s = .next v ∧ runs i v = .next t := by
  induction j generalizing s with
  | zero => exact ⟨s, rfl, by rwa [Nat.zero_add] at h⟩
  | succ j ih =>
    rw [Nat.succ_add, runs_unfold] at h
    cases hs : step s with
    | next u =>
      rw [hs] at h
      obtain ⟨v, hv, ht⟩ := ih h
      exact ⟨v, (runs_succ hs).trans hv, ht⟩
    | fault f => rw [hs] at h; cases h
    | refused r => rw [hs] at h; cases h

/-- A run of at least one step begins with a step. -/
theorem step_of_runs (h : runs (k + 1) s = .next t) : ∃ u, step s = .next u ∧ runs k u = .next t := by
  rw [Nat.add_comm] at h
  obtain ⟨u, hu, ht⟩ := runs_split h
  cases hs : step s with
  | next w =>
    rw [runs_one hs] at hu
    cases hu
    exact ⟨_, rfl, ht⟩
  | fault f => rw [runs_unfold, hs] at hu; cases hu
  | refused r => rw [runs_unfold, hs] at hu; cases hu

/-- Idle, with no request offered, a step only lets `op_done` fall. -/
theorem step_quiet (hs : Waiting s) (hv : s.port.opValid = false) : step s = .next s.clearDone :=
  (stepRunsTheRequestAtThePort s hs).2 hv

/-- While the block is out of reset and no request is offered, a step leaves the port as it is. -/
theorem step_keeps_port (hrst : s.port.rstN = true) (hv : s.port.opValid = false) (h : step s = .next t) : t.port = s.port := by
  cases hr : s.run with
  | true => exact (step_keeps_request hr hrst h).1
  | false =>
    rw [step_quiet ⟨hrst, hr⟩ hv] at h
    cases h
    rfl

/-- Nor does a run. -/
theorem runs_keep_port (hrst : s.port.rstN = true) (hv : s.port.opValid = false) (h : runs k s = .next t) :
    t.port = s.port := by
  induction k generalizing s with
  | zero => cases h; rfl
  | succ k ih =>
    obtain ⟨u, hu, ht⟩ := step_of_runs h
    have hport := step_keeps_port hrst hv hu
    exact (ih (by rwa [hport]) (by rwa [hport]) ht).trans hport

/-- Idle, with no request offered, a run leaves `op_done` low. -/
theorem runs_quiet (hs : Waiting s) (hv : s.port.opValid = false) (h : runs (k + 1) s = .next t) : t.opDone = false := by
  induction k generalizing s with
  | zero =>
    rw [runs_one (step_quiet hs hv)] at h
    cases h
    rfl
  | succ k ih =>
    rw [runs_succ (step_quiet hs hv)] at h
    exact ih hs hv h

/-- A run that ends with `op_done` high, no request being offered, is the run of one operation. -/
theorem runs_running (hrst : u.port.rstN = true) (hv : u.port.opValid = false) (h : runs k u = .next t)
    (hd : t.opDone = true) (hj : j < k) : ∃ v, runs j u = .next v ∧ v.run = true := by
  obtain ⟨i, rfl⟩ := Nat.exists_eq_add_of_lt hj
  obtain ⟨v, hjv, hvt⟩ := runs_split (j := j) (i := i + 1) h
  refine ⟨v, hjv, Bool.of_not_eq_false fun hr => ?_⟩
  have hport := runs_keep_port hrst hv hjv
  have hlow := runs_quiet ⟨by rwa [hport], hr⟩ (by rwa [hport]) hvt
  rw [hd] at hlow
  cases hlow

/-! ### A host that acts while `Display` runs -/

/-- A position of `Display` reads no pixel and writes no byte of `PBB`. -/
theorem noPixel_of_display (hs : s.seq = .pos .display ph k) (n : Nat) : s.seq ≠ .pos .convert .pixel n := by
  rw [hs]
  simp

/-- A step of `Display` is the same whatever the host has at its port and in `IMG`, and leaves that there. -/
theorem step_display_hosted (hrst : s.port.rstN = true) (hr : s.run = true) (hs : s.seq = .pos .display ph k)
    (hp : p.rstN = true) (h : step s = .next t) : step (s.hosted p g s.pbb) = .next (t.hosted p g t.pbb) := by
  have hpbb : s.bufferAfter s.pbb = s.pbb := State.bufferAfter_eq _ _ (noPixel_of_display hs)
  have hpx : s.pxX = none := by simp [State.pxX, State.pixelAt, hs]
  have hhosted := step_hosted p g s.pbb s hr (hp.trans hrst.symm) (fun x y hx => by rw [hpx] at hx; cases hx) fun _ _ => rfl
  rw [h, hpbb] at hhosted
  rw [hhosted, step_pbb h, hpbb]
  rfl

/-- What the host does while the buffer is stable, it does to its port and to `IMG`; and it leaves `rst_n` high. -/
theorem apply_hosted (a : HostAct) (hr : s.run = true) (hs : s.seq = .pos .display ph k) (hp : p.rstN = true)
    (hstable : (s.hosted p g s.pbb).displaying = true → (a.apply (s.hosted p g s.pbb)).pbb = s.pbb) :
    ∃ p' g', p'.rstN = true ∧ a.apply (s.hosted p g s.pbb) = s.hosted p' g' s.pbb := by
  cases a with
  | none => exact ⟨p, g, hp, rfl⟩
  | offer code len => exact ⟨{ p with opValid := true, opCode := code, bufLen := len }, g, hp, rfl⟩
  | setImage image => exact ⟨p, image, hp, rfl⟩
  | writeBuffer address value =>
    have hsame := hstable (by simp [State.displaying, hs, hr])
    refine ⟨p, g, hp, ?_⟩
    show (s.hosted p g s.pbb).writePbb address value = _
    change memWrite pbbDefault s.pbb address value = s.pbb at hsame
    rw [State.writePbb, State.hosted_pbb, hsame]
    rfl

/-- An operation in progress after a step is the one that was in progress before it. -/
theorem step_keeps_op (hrst : s.port.rstN = true) (hr : s.run = true) (hs : s.seq = .pos op ph k) (h : step s = .next t)
    (hrt : t.run = true) : ∃ ph' n, t.seq = .pos op ph' n := by
  obtain ⟨op', ph', n, hs', -, hgoes | hends⟩ := step_goesOn_or_ends hrst hr h
  · rw [hs] at hs'
    cases hs'
    obtain ⟨ph'', n', hnext, -⟩ := hgoes.seq
    exact ⟨ph'', n', hnext⟩
  · rw [hends.run] at hrt
    cases hrt

/-- A host that acts between the steps of `Display` and leaves the buffer stable changes nothing but what is its own. -/
theorem hostRuns_stable (acts : List HostAct) (hrst : u.port.rstN = true) (hp : p.rstN = true)
    (hseq : u.run = true → ∃ ph n, u.seq = .pos .display ph n) (h : runs acts.length u = .next t)
    (hrun : ∀ j, j < acts.length → ∃ v, runs j u = .next v ∧ v.run = true)
    (hstable : BufferStable acts (u.hosted p g u.pbb)) :
    ∃ p' g', hostRuns acts (u.hosted p g u.pbb) = .next (t.hosted p' g' t.pbb) := by
  induction acts generalizing u p g with
  | nil =>
    cases h
    exact ⟨p, g, rfl⟩
  | cons a acts ih =>
    obtain ⟨_, hu, hr⟩ := hrun 0 (Nat.succ_pos _)
    cases hu
    obtain ⟨ph, n, hs⟩ := hseq hr
    obtain ⟨w, hstep, hw⟩ := step_of_runs h
    obtain ⟨hfirst, hrest⟩ := hstable
    obtain ⟨p', g', hp', happly⟩ := apply_hosted a hr hs hp hfirst
    have hhosted := step_display_hosted (g := g') hrst hr hs hp' hstep
    rw [happly, hhosted] at hrest
    have hrun' (j : Nat) (hj : j < acts.length) : ∃ v, runs j w = .next v ∧ v.run = true := by
      obtain ⟨v, hv, hrv⟩ := hrun (j + 1) (Nat.succ_lt_succ hj)
      exact ⟨v, (runs_succ hstep).symm.trans hv, hrv⟩
    obtain ⟨p'', g'', hend⟩ := ih (by rw [(step_keeps_request hr hrst hstep).1]; exact hrst) hp'
      (step_keeps_op hrst hr hs hstep) hw hrun' hrest
    refine ⟨p'', g'', ?_⟩
    simp only [hostRuns, happly, hhosted, hend]

end Sys2Proof.Machine
end

section
/-! SUPPORT. The statement of 41_protocol_driver.md about `Display`. -/

open Sys2Proof Sys2Proof.Machine

/-- Settles O38: the run of `Display`, and that no step of it reads what a host with a stable buffer changes. -/
theorem displaySendsTheBuffer : Obligations.DisplaySendsTheBuffer := by
  intro s n ⟨hrst, hr⟩ hls hlen hn hl hb
  obtain ⟨k, hruns⟩ := refresh_completes hn hrst hls (.inr ⟨rfl, hlen⟩) hl hb
  rw [frameEvents_display] at hruns
  refine ⟨_, k, _, exec_instr_idle .display hr, hruns, ended_completed .., rfl, rfl, rfl, fun acts hlength hstable => ?_⟩
  subst hlength
  exact hostRuns_stable (u := accept .display s) acts hrst hrst (fun _ => ⟨_, _, rfl⟩) hruns
    (fun j hj => runs_running hrst rfl hruns rfl hj) hstable

end

section
/-! SUPPORT. `INIT_SEQ` as a run: the frames of a step, the steps without a wait, the one that has one. -/

namespace Sys2Proof.Machine

open Host

variable {s0 s t u : State} {done : Bool} {ev : List Event} {m f k n si ai : Nat} {l : Lines} {ls : Lifecycle} {seq : Seq}
  {dp : Datapath} {st : InitStep} {pre post : List InitStep}

/-- Chip-select is inactive, as every frame leaves it (40_transport_primitives.md R112). -/
def Deselected (c : Config) (l : Lines) : Prop := l.cs = .driven c.csActiveLevel.opposite

/-! ### The frames of a step -/

/-- After an argument that is not the last. -/
theorem advanceInitArg_more (hsi : dp.si = some si) (hst : s0.cfg.initSeq[si]? = some st) (hai : dp.ai = some ai)
    (hlt : ai + 1 < st.args.length) :
    advanceInitArg (reached s0 done ev m f l ls seq dp) =
      .ok (reached s0 done ev m f l ls (.pos .init .initArg (ai + 1)) { dp with ai := some (ai + 1) }) := by
  have hcur := currentInitStep_eq (s := reached s0 done ev m f l ls seq dp) hsi hst
  simp only [advanceInitArg, hcur]
  simp only [reached, hsi, hai, readReg, if_pos hlt]
  rfl

/-- After the last argument. -/
theorem advanceInitArg_last (hsi : dp.si = some si) (hst : s0.cfg.initSeq[si]? = some st) (hai : dp.ai = some ai)
    (hlt : st.args.length ≤ ai + 1) :
    advanceInitArg (reached s0 done ev m f l ls seq dp) =
      .ok (afterInitFrames st si (reached s0 done ev m f l ls seq dp)) := by
  have hcur := currentInitStep_eq (s := reached s0 done ev m f l ls seq dp) hsi hst
  simp only [advanceInitArg, hcur]
  simp only [reached, hsi, hai, readReg, if_neg (Nat.not_lt.mpr hlt)]

/-- After the command of a step that has arguments. -/
theorem advanceInitCmd_args (hsi : dp.si = some si) (hst : s0.cfg.initSeq[si]? = some st) (hpos : 0 < st.args.length) :
    advanceInitCmd (reached s0 done ev m f l ls seq dp) =
      .ok (reached s0 done ev m f l ls (.pos .init .initArg 0) { dp with ai := some 0 }) := by
  have hcur := currentInitStep_eq (s := reached s0 done ev m f l ls seq dp) hsi hst
  simp only [advanceInitCmd, hcur]
  simp only [reached, hsi, readReg, if_pos hpos]
  rfl

/-- After the command of a step that has none. -/
theorem advanceInitCmd_noArgs (hsi : dp.si = some si) (hst : s0.cfg.initSeq[si]? = some st) (hnil : st.args = []) :
    advanceInitCmd (reached s0 done ev m f l ls seq dp) =
      .ok (afterInitFrames st si (reached s0 done ev m f l ls seq dp)) := by
  have hcur := currentInitStep_eq (s := reached s0 done ev m f l ls seq dp) hsi hst
  have hno : ¬ 0 < st.args.length := by rw [hnil]; decide
  simp only [advanceInitCmd, hcur]
  simp only [reached, hsi, readReg, if_neg hno]

/-- What argument `ai` of step `si` sends. -/
theorem fetchPhase_initArg (hsi : dp.si = some si) (hst : s0.cfg.initSeq[si]? = some st) (hai : dp.ai = some ai)
    (hlt : ai < st.args.length) :
    fetchPhase .init .initArg k (reached s0 done ev m f l ls seq dp) =
      .ok (.frameData st.args[ai], reached s0 done ev m f l ls seq dp) := by
  have hcur := currentInitStep_eq (s := reached s0 done ev m f l ls seq dp) hsi hst
  simp only [fetchPhase, initArgument, hcur]
  simp only [reached, hai, readReg, List.getElem?_eq_getElem hlt, inState]

/-- What the command of step `si` sends. -/
theorem fetchPhase_initCmd (hsi : dp.si = some si) (hst : s0.cfg.initSeq[si]? = some st) :
    fetchPhase .init .initCmd k (reached s0 done ev m f l ls seq dp) =
      .ok (.frameCommand st.cmd, reached s0 done ev m f l ls seq dp) := by
  have hcur := currentInitStep_eq (s := reached s0 done ev m f l ls seq dp) hsi hst
  simp only [fetchPhase, initCommand, hcur, inState]

/-- The arguments of a step from argument `ai` on. -/
theorem reaches_afterArgs (hn : NoTransportFault s0) (hrst : s0.port.rstN = true) (hst : s0.cfg.initSeq[si]? = some st)
    (hsi : dp.si = some si) (hai : dp.ai = some ai) (hlen : ai + n + 1 = st.args.length) :
    ∃ f' l' seq' dp', dp'.si = some si ∧ Deselected s0.cfg l' ∧ l'.rst = l.rst ∧
      Reaches (reached s0 done ev m f l ls (.pos .init .initArg ai) dp)
        (afterInitFrames st si (reached s0 false (ev ++ (st.args.drop ai).map dataEvent) m f' l' ls seq' dp')) := by
  have hlt : ai < st.args.length := by omega
  have hdrop : st.args.drop ai = st.args[ai] :: st.args.drop (ai + 1) := List.drop_eq_getElem_cons hlt
  induction n generalizing done ev f l ai dp with
  | zero =>
    have hstep := reached_frame (done := done) (k := ai) (ev := ev) (m := m) (f := f) (l := l) (ls := ls) hn hrst rfl
      (fetchPhase_initArg hsi hst hai hlt) rfl fun _ => advanceInitArg_last hsi hst hai (by omega)
    have hlast : st.args.drop (ai + 1) = [] := List.drop_eq_nil_of_le (by omega)
    rw [hdrop, hlast]
    exact ⟨f + 4, frameLines s0.cfg .data l, _, dp, hsi, rfl, rfl, .of_runs (runs_one hstep)⟩
  | succ n ih =>
    have hstep := reached_frame (done := done) (k := ai) (ev := ev) (m := m) (f := f) (l := l) (ls := ls) hn hrst rfl
      (fetchPhase_initArg hsi hst hai hlt) rfl fun _ => advanceInitArg_more hsi hst hai (by omega)
    have hlt' : ai + 1 < st.args.length := by omega
    obtain ⟨f', l', seq', dp', hsi', hcs, hl', hreach⟩ := ih (done := false) (ev := ev ++ [dataEvent st.args[ai]]) (f := f + 4)
      (l := frameLines s0.cfg .data l) (ai := ai + 1) (dp := { dp with ai := some (ai + 1) }) hsi rfl (by omega) hlt'
      (List.drop_eq_getElem_cons hlt')
    rw [List.append_assoc] at hreach
    rw [hdrop, List.map_cons]
    exact ⟨f', l', seq', dp', hsi', hcs, hl', .step hstep hreach⟩

/-- The frames of a step: its command and its arguments. -/
theorem reaches_afterFrames (hn : NoTransportFault s0) (hrst : s0.port.rstN = true) (hst : s0.cfg.initSeq[si]? = some st)
    (hsi : dp.si = some si) :
    ∃ f' l' seq' dp', dp'.si = some si ∧ Deselected s0.cfg l' ∧ l'.rst = l.rst ∧
      Reaches (reached s0 done ev m f l ls (.pos .init .initCmd si) dp)
        (afterInitFrames st si (reached s0 false (ev ++ cmdEvent st.cmd :: st.args.map dataEvent) m f' l' ls seq' dp')) := by
  by_cases hnil : st.args = []
  · have hstep := reached_frame (done := done) (k := si) (ev := ev) (m := m) (f := f) (l := l) (ls := ls) hn hrst rfl
      (fetchPhase_initCmd hsi hst) rfl fun _ => advanceInitCmd_noArgs hsi hst hnil
    rw [hnil]
    exact ⟨f + 4, frameLines s0.cfg .command l, _, dp, hsi, rfl, rfl, .of_runs (runs_one hstep)⟩
  · have hpos : 0 < st.args.length := List.length_pos_iff.mpr hnil
    have hstep := reached_frame (done := done) (k := si) (ev := ev) (m := m) (f := f) (l := l) (ls := ls) hn hrst rfl
      (fetchPhase_initCmd hsi hst) rfl fun _ => advanceInitCmd_args hsi hst hpos
    obtain ⟨f', l', seq', dp', hsi', hcs, hl', hreach⟩ := reaches_afterArgs (done := false) (ev := ev ++ [cmdEvent st.cmd])
      (m := m) (f := f + 4) (l := frameLines s0.cfg .command l) (ls := ls) (dp := { dp with ai := some 0 }) (ai := 0)
      (n := st.args.length - 1) hn hrst hst hsi rfl (by omega)
    rw [List.append_assoc, List.drop_zero] at hreach
    exact ⟨f', l', seq', dp', hsi', hcs, hl', .step hstep hreach⟩

/-! ### The steps -/

/-- Steps of `INIT_SEQ` that have no wait. -/
theorem reaches_initSteps (hn : NoTransportFault s0) (hrst : s0.port.rstN = true)
    (hdrop : s0.cfg.initSeq.drop si = pre ++ post) (hwait : ∀ st ∈ pre, st.wait = false) :
    ∃ done' f' l' seq' dp', (Deselected s0.cfg l → Deselected s0.cfg l') ∧ l'.rst = l.rst ∧
      Reaches (enterInitStep si (reached s0 done ev m f l ls seq dp))
        (enterInitStep (si + pre.length)
          (reached s0 done' (ev ++ pre.flatMap (initStepEvents n)) m f' l' ls seq' dp')) := by
  induction pre generalizing si done ev f l seq dp with
  | nil => exact ⟨done, f, l, seq, dp, id, rfl, by rw [List.flatMap_nil, List.append_nil]; exact .refl _⟩
  | cons st pre ih =>
    have hst : s0.cfg.initSeq[si]? = some st := by
      rw [← Nat.add_zero si, ← List.getElem?_drop, hdrop]
      rfl
    have hlt : si < s0.cfg.initSeq.length := (List.getElem?_eq_some_iff.mp hst).1
    have hdrop' : s0.cfg.initSeq.drop (si + 1) = pre ++ post := by
      rw [← List.drop_drop, hdrop]
      rfl
    obtain ⟨f1, l1, seq1, dp1, -, hcs1, hl1, hreach1⟩ := reaches_afterFrames (done := done) (ev := ev) (m := m) (f := f) (l := l)
      (ls := ls) (dp := { dp with si := some si }) hn hrst hst rfl
    have hnowait : st.wait = false := hwait st List.mem_cons_self
    obtain ⟨done2, f2, l2, seq2, dp2, hcs2, hl2, hreach2⟩ := ih (si := si + 1) (done := false)
      (ev := ev ++ cmdEvent st.cmd :: st.args.map dataEvent) (f := f1) (l := l1) (seq := seq1) (dp := dp1) hdrop'
      fun st' h => hwait st' (List.mem_cons_of_mem _ h)
    have hev : ev ++ (st :: pre).flatMap (initStepEvents n) =
        ev ++ cmdEvent st.cmd :: st.args.map dataEvent ++ pre.flatMap (initStepEvents n) := by
      simp [initStepEvents, hnowait]
    have hlen : si + (st :: pre).length = si + 1 + pre.length := by rw [List.length_cons]; omega
    rw [afterInitFrames, hnowait] at hreach1
    rw [enterInitStep_more hlt, hev, hlen]
    exact ⟨done2, f2, l2, seq2, dp2, fun _ => hcs2 hcs1, hl2.trans hl1, hreach1.trans hreach2⟩

/-- `INIT_SEQ` holds one step with a wait, power-on (30_encoding.md R93). -/
theorem WfConfig.initSeq_split {c : Config} (h : WfConfig c) :
    ∃ pre st post, c.initSeq = pre ++ st :: post ∧ st.wait = true ∧ (∀ x ∈ pre, x.wait = false) ∧
      ∀ x ∈ post, x.wait = false := by
  obtain ⟨st, hst⟩ := List.length_eq_one_iff.mp h.onePowerOn
  obtain ⟨pre, post, hseq, hpre, hcmd, hpost⟩ := List.filter_eq_cons_iff.mp hst
  have hmem (x : InitStep) (hx : x ∈ pre ∨ x = st ∨ x ∈ post) : x ∈ c.initSeq := by rw [hseq]; simpa using hx
  refine ⟨pre, st, post, hseq, ?_, fun x hx => ?_, fun x hx => ?_⟩
  · rw [h.wait st (hmem st (.inr (.inl rfl)))]
    exact hcmd
  · rw [h.wait x (hmem x (.inl hx))]
    exact Bool.eq_false_iff.mpr (hpre x hx)
  · rw [h.wait x (hmem x (.inr (.inr hx)))]
    exact Bool.eq_false_iff.mpr (List.filter_eq_nil_iff.mp hpost x hx)

/-- After the pulse of `Init` its sequence begins. -/
theorem afterPulse_init :
    afterPulse .init (reached s0 done ev m f l ls seq dp) = enterInitStep 0 (reached s0 done ev m f l .unpowered seq dp) := rfl

/-- `Init` is valid but in Sleeping (41_protocol_driver.md R131). -/
theorem validIn_init (h : ls ≠ .sleeping) : Op.init.validIn ls = true := by
  cases ls
  case sleeping => exact absurd rfl h
  all_goals rfl

/-- `Init` comes to its wait, having pulsed the reset line and sent `INIT_SEQ` up to the step with the wait. -/
theorem init_reaches_wait (hn : NoTransportFault s) (hrst : s.port.rstN = true) (hls : s.ls ≠ .sleeping)
    (hseq : s.cfg.initSeq = pre ++ st :: post) (hst : st.wait = true) (hpre : ∀ x ∈ pre, x.wait = false) :
    ∃ (f : Nat) (l : Lines) (dp : Datapath), dp.si = some pre.length ∧ Deselected s.cfg l ∧ l.rst = .driven .high ∧
      Reaches (accept .init s) (reached (accept .init s) false
        (pulseEvents ++ pre.flatMap (initStepEvents n) ++ cmdEvent st.cmd :: st.args.map dataEvent) 0 f l .unpowered
        (.pos .init .poll 0) { dp with pc := some 0 }) := by
  have hcheck := step_accept (op := .init) hrst rfl (validIn_init hls)
  have hpulse := runs_pulse (s0 := accept .init s) (done := false) (ev := []) (m := 0) (f := 0) (l := s.lines) (ls := s.ls)
    (op := .init) (dp := s.dp) hrst (nextOk_of_noTransportFault hn) rfl
  rw [afterPulse_init, List.nil_append] at hpulse
  have hget : s.cfg.initSeq[pre.length]? = some st := by rw [hseq]; simp
  have hlt : pre.length < s.cfg.initSeq.length := (List.getElem?_eq_some_iff.mp hget).1
  obtain ⟨done1, f1, l1, seq1, dp1, -, hl1, hsteps⟩ := reaches_initSteps (n := n) (s0 := accept .init s) (done := false)
    (ev := pulseEvents) (m := 0) (f := 0 + 3) (l := { s.lines with rst := .driven .high }) (ls := .unpowered)
    (seq := .pos .init .pulse 5) (dp := s.dp) (si := 0) hn hrst hseq hpre
  rw [Nat.zero_add pre.length, enterInitStep_more (s0 := accept .init s) hlt] at hsteps
  obtain ⟨f2, l2, seq2, dp2, hsi2, hcs2, hl2, hframes⟩ := reaches_afterFrames (s0 := accept .init s) (done := done1)
    (ev := pulseEvents ++ pre.flatMap (initStepEvents n)) (m := 0) (f := f1) (l := l1) (ls := .unpowered)
    (dp := { dp1 with si := some pre.length }) hn hrst hget rfl
  rw [afterInitFrames, hst] at hframes
  exact ⟨f2, l2, dp2, hsi2, hcs2, hl2.trans hl1, .step hcheck ((Reaches.of_runs hpulse).trans (hsteps.trans hframes))⟩

/-- `Init`, the panel answering `n` low samples and then a high one. -/
theorem init_completes (hn : NoTransportFault s) (hrst : s.port.rstN = true) (hls : s.ls ≠ .sleeping) (hwf : WfConfig s.cfg)
    (hl : LowsThenHigh n s.busy) (hb : WithinPolls n s.cfg) :
    ∃ f l, Deselected s.cfg l ∧ l.rst = .driven .high ∧
      Reaches (accept .init s) (ended (accept .init s) .ok
        (pulseEvents ++ s.cfg.initSeq.flatMap (initStepEvents n)) (n + 1) f l .ready) := by
  obtain ⟨pre, st, post, hseq, hst, hpre, hpost⟩ := hwf.initSeq_split
  obtain ⟨f, l, dp, hsi, hcs, hrstHigh, hreach⟩ := init_reaches_wait (n := n) hn hrst hls hseq hst hpre
  have hwait := runs_wait_high (s0 := accept .init s) (done := false)
    (ev := pulseEvents ++ pre.flatMap (initStepEvents n) ++ cmdEvent st.cmd :: st.args.map dataEvent) (m := 0) (f := f) (l := l)
    (ls := .unpowered) (dp := dp) hn hrst rfl hl hb (afterWait_init (si := pre.length) hsi)
  have hdrop : s.cfg.initSeq.drop (pre.length + 1) = post ++ [] := by rw [hseq]; simp
  obtain ⟨done', f', l', seq', dp', hcs', hl', hsteps⟩ := reaches_initSteps (n := n) (s0 := accept .init s) (done := false)
    (ev := pulseEvents ++ pre.flatMap (initStepEvents n) ++ cmdEvent st.cmd :: st.args.map dataEvent ++ waitEvents n)
    (m := 0 + n + 1) (f := f + n + 1) (l := l) (ls := .unpowered) (seq := .pos .init .poll n) (dp := { dp with pc := none })
    (si := pre.length + 1) hn hrst hdrop hpost
  have hev : pulseEvents ++ pre.flatMap (initStepEvents n) ++ cmdEvent st.cmd :: st.args.map dataEvent ++ waitEvents n ++
      post.flatMap (initStepEvents n) = pulseEvents ++ s.cfg.initSeq.flatMap (initStepEvents n) := by
    rw [hseq]
    simp [initStepEvents, hst]
  have hall : s.cfg.initSeq.length ≤ pre.length + 1 + post.length := by rw [hseq]; simp; omega
  rw [enterInitStep_last (s0 := accept .init s) hall, hev, Nat.zero_add] at hsteps
  rw [Nat.zero_add] at hwait
  exact ⟨f', l', hcs' hcs, hl'.trans hrstHigh, hreach.trans ((Reaches.of_runs hwait).trans (hsteps.trans
    (.step (step_reached_done (s0 := accept .init s) hrst rfl) (.refl _))))⟩

end Sys2Proof.Machine
end

section
/-! SUPPORT. The statement of 41_protocol_driver.md about `Init`. -/

open Sys2Proof Sys2Proof.Machine

/-- Settles O36, by the run of `Init`: the pulse, the steps of `INIT_SEQ` around the one that waits, the completion. -/
theorem initSendsTheInitSequence : Obligations.InitSendsTheInitSequence := by
  intro s n ⟨hrst, hr⟩ hls hn hwf hl hb
  obtain ⟨f, l, hcs, hrstHigh, k, hruns⟩ := init_completes hn hrst hls (wfConfig_of_configWf hwf) hl hb
  exact ⟨_, k, _, exec_instr_idle .init hr, hruns, ended_completed .., hrstHigh, hcs, rfl, rfl⟩

end

section
/-! SUPPORT. Every operation completes: with what the transition table says, or with `Timeout`. -/

namespace Sys2Proof.Machine

open Host

variable {s t u : State} {ev : List Event} {f k n limit : Nat} {l : Lines} {ls : Lifecycle} {op : Op} {dp : Datapath}

/-- LS and STATUS in `t` are those of the transition table for `op` in `s`, or those of a wait that reached its bound
(41_protocol_driver.md R138). -/
def AsTheTableSays (op : Op) (s t : State) : Prop :=
  (t.ls, t.status) = transition (decide (s.port.bufLen = 30720)) op s.ls ∨
    (t.status = .timeout ∧ t.ls = lsAfterTimeout op s.ls ∧
      ∃ limit, s.cfg.busyTimeoutPolls = some limit ∧ ∀ m, m < limit → (busyAfter m s.busy).level = .low)

/-- The operation, accepted in `s`, comes to an end that the table allows. -/
structure ComesToEnd (op : Op) (s t : State) : Prop where
  reaches : Reaches (accepted op s) t
  run : t.run = false
  seq : t.seq = .idle
  opDone : t.opDone = true
  table : AsTheTableSays op s t

/-! ### A wait that ends -/

/-- A wait that ends does so by a high sample or at the bound. -/
theorem wait_high_or_timeout (h : WaitEndsFrom 0 s) (hpolls : s.cfg.busyTimeoutPolls ≠ some 0) :
    (∃ n, LowsThenHigh n s.busy ∧ WithinPolls n s.cfg) ∨
      ∃ limit, s.cfg.busyTimeoutPolls = some (limit + 1) ∧ ∀ i, i < limit + 1 → (busyAfter i s.busy).level = .low := by
  have bounded {b : Nat} (hb : s.cfg.busyTimeoutPolls = some b) (hlow : ∀ i, i < b → (busyAfter i s.busy).level = .low) :
      ∃ limit, s.cfg.busyTimeoutPolls = some (limit + 1) ∧ ∀ i, i < limit + 1 → (busyAfter i s.busy).level = .low := by
    cases b with
    | zero => exact absurd hb hpolls
    | succ limit => exact ⟨limit, hb, hlow⟩
  obtain ⟨n, hl⟩ | ⟨b, hb, hlow⟩ := h
  · by_cases hwithin : WithinPolls n s.cfg
    · exact .inl ⟨n, hl, hwithin⟩
    · simp only [WithinPolls, not_forall, Nat.not_lt] at hwithin
      obtain ⟨b, hb, hbn⟩ := hwithin
      exact .inr (bounded hb fun i hi => hl.1 i (Nat.lt_of_lt_of_le hi hbn))
  · exact .inr (bounded hb fun i hi => by simpa using hlow i hi)

/-- An operation whose wait reaches the bound ends with `Timeout`. -/
theorem comesToEnd_timeout (hrst : s.port.rstN = true) (hn : NoTransportFault s) (hp : op.hasPhase .poll = true)
    (hpolls : s.cfg.busyTimeoutPolls = some (limit + 1)) (hlow : ∀ i, i < limit + 1 → (busyAfter i s.busy).level = .low)
    (hreach : Reaches (accept op s) (reached (accept op s) false ev 0 f l ls (.pos op .poll 0) { dp with pc := some 0 }))
    (hls : ls = lsAfterTimeout op s.ls) : ∃ t, ComesToEnd op s t := by
  have hwait := runs_wait_timeout (s0 := accept op s) (done := false) (ev := ev) (m := 0) (f := f) (l := l) (ls := ls) (dp := dp)
    hn hrst hp hpolls fun i hi => by rw [Nat.zero_add]; exact hlow i hi
  have hacc : accepted op s = accept op s := if_neg (by rintro rfl; cases hp)
  exact ⟨_, hacc ▸ hreach.trans (.of_runs hwait), rfl, rfl, rfl, .inr ⟨rfl, hls, limit + 1, hpolls, hlow⟩⟩

/-! ### The operations -/

/-- `Reset` completes. -/
theorem reset_comesToEnd (hrst : s.port.rstN = true) (hn : NoTransportFault s) : ∃ t, ComesToEnd .reset s t :=
  ⟨_, .of_runs (runs_reset hrst (nextOk_of_noTransportFault hn)), rfl, rfl, rfl, .inl rfl⟩

/-- `Init` completes, where it is valid. -/
theorem init_comesToEnd (hrst : s.port.rstN = true) (hn : NoTransportFault s) (hls : s.ls ≠ .sleeping) (hwf : WfConfig s.cfg)
    (hwait : WaitEndsFrom 0 s) : ∃ t, ComesToEnd .init s t := by
  obtain ⟨n, hl, hb⟩ | ⟨limit, hpolls, hlow⟩ := wait_high_or_timeout hwait hwf.polls
  · obtain ⟨f, l, -, -, hreach⟩ := init_completes hn hrst hls hwf hl hb
    have htable : (Lifecycle.ready, Status.ok) = transition (decide (s.port.bufLen = 30720)) .init s.ls := by
      cases h : s.ls
      case sleeping => exact absurd h hls
      all_goals rfl
    exact ⟨_, hreach, rfl, rfl, rfl, .inl htable⟩
  · obtain ⟨pre, st, post, hseq, hst, hpre, -⟩ := hwf.initSeq_split
    obtain ⟨f, l, dp, -, -, -, hreach⟩ := init_reaches_wait (n := 0) hn hrst hls hseq hst hpre
    exact comesToEnd_timeout hrst hn rfl hpolls hlow hreach rfl

/-- `Clear` and `Display` in Ready complete; `Display` needs a buffer of the right length. -/
theorem refresh_comesToEnd (hrst : s.port.rstN = true) (hn : NoTransportFault s) (hls : s.ls = .ready)
    (hop : op = .clear ∨ op = .display ∧ s.port.bufLen = 30720) (hpolls : s.cfg.busyTimeoutPolls ≠ some 0)
    (hwait : WaitEndsFrom 0 s) : ∃ t, ComesToEnd op s t := by
  have hop' : op.hasPhase .poll = true ∧ accepted op s = accept op s ∧ Lifecycle.ready = lsAfterTimeout op s.ls ∧
      (Lifecycle.ready, Status.ok) = transition (decide (s.port.bufLen = 30720)) op s.ls := by
    obtain rfl | ⟨rfl, hlen⟩ := hop
    · exact ⟨rfl, rfl, hls.symm, by rw [hls]; rfl⟩
    · exact ⟨rfl, rfl, hls.symm, by rw [hls, hlen]; rfl⟩
  obtain ⟨hp, hacc, htimeout, htable⟩ := hop'
  obtain ⟨n, hl, hb⟩ | ⟨limit, hlimit, hlow⟩ := wait_high_or_timeout hwait hpolls
  · exact ⟨_, hacc ▸ refresh_completes hn hrst hls hop hl hb, rfl, rfl, rfl, .inl htable⟩
  · obtain ⟨d, hreach⟩ := reaches_wait hn hrst hls hop
    exact comesToEnd_timeout hrst hn hp hlimit hlow hreach htimeout

/-- `Sleep` in Ready completes. -/
theorem sleep_comesToEnd (hrst : s.port.rstN = true) (hn : NoTransportFault s) (hls : s.ls = .ready)
    (hpolls : s.cfg.busyTimeoutPolls ≠ some 0) (hwait : WaitEndsFrom 0 s) : ∃ t, ComesToEnd .sleep s t := by
  obtain ⟨n, hl, hb⟩ | ⟨limit, hlimit, hlow⟩ := wait_high_or_timeout hwait hpolls
  · exact ⟨_, sleep_completes hrst hn hls hl hb, rfl, rfl, rfl, .inl (by rw [hls]; rfl)⟩
  · exact comesToEnd_timeout hrst hn rfl hlimit hlow (sleep_reaches_wait hrst hn hls) hls.symm

/-- A run of `Convert` is the same run whatever `PBB` held. -/
theorem runs_hosted_buffer (m : List Cell) (hrst : s.port.rstN = true) (hv : s.port.opValid = false)
    (hseq : s.run = true → ∃ ph n, s.seq = .pos .convert ph n) (h : runs k s = .next t) :
    ∃ m', runs k (s.hosted s.port s.img m) = .next (t.hosted t.port t.img m') := by
  induction k generalizing s m with
  | zero =>
    cases h
    exact ⟨m, rfl⟩
  | succ k ih =>
    obtain ⟨w, hstep, hw⟩ := step_of_runs h
    have hbuf : s.bufAddr = none := by
      cases hr : s.run with
      | false => simp [State.bufAddr, State.operating, hr]
      | true =>
        obtain ⟨ph, n, hs⟩ := hseq hr
        simp [State.bufAddr, hs]
    have hhosted := step_hosted_memories (g := s.img) (m := m) hstep (fun _ => ⟨rfl, rfl⟩) (fun _ _ _ _ => rfl)
      fun a ha => by rw [hbuf] at ha; cases ha
    have hport := step_keeps_port hrst hv hstep
    have hseq' (hrw : w.run = true) : ∃ ph n, w.seq = .pos .convert ph n := by
      cases hr : s.run with
      | false =>
        rw [step_quiet ⟨hrst, hr⟩ hv] at hstep
        cases hstep
        exact absurd (hr.symm.trans hrw) (by decide)
      | true =>
        obtain ⟨ph, n, hs⟩ := hseq hr
        exact step_keeps_op hrst hr hs hstep hrw
    obtain ⟨m', hend⟩ := ih (s := w) (s.bufferAfter m) (by rwa [hport]) (by rwa [hport]) hseq' hw
    rw [(step_keeps_cfg_img hstep).2] at hend
    exact ⟨m', (runs_succ hhosted).trans hend⟩

/-- `Convert` completes, whatever `PBB` holds: the run from an empty `PBB` is its run. -/
theorem convert_comesToEnd (hs : Waiting s) : ∃ t, ComesToEnd .convert s t := by
  obtain ⟨hrst, hr⟩ := hs
  obtain ⟨u, k, m, hu, hruns, -⟩ := convert_completes (s := s.hosted s.port s.img []) ⟨hrst, hr⟩ rfl
  rw [exec_convert_idle (s := s.hosted s.port s.img []) hr] at hu
  cases hu
  obtain ⟨m', hend⟩ := runs_hosted_buffer (s := converting (s.hosted s.port s.img []) s.opDone 0 []) s.pbb
    hrst rfl (fun _ => ⟨_, _, rfl⟩) hruns
  exact ⟨_, .of_runs hend, rfl, rfl, rfl, .inl rfl⟩

/-- An operation outside its valid states completes. -/
theorem invalid_comesToEnd (hs : Waiting s) (hv : op.validIn s.ls = false) : ∃ t, ComesToEnd op s t := by
  obtain ⟨u, hu, hruns⟩ := invalidStateDrivesNothing s op hs hv
  rw [exec_instr_idle op hs.2] at hu
  cases hu
  have htable : (s.ls, Status.invalidState) = transition (decide (s.port.bufLen = 30720)) op s.ls := by
    generalize s.ls = ls at hv
    cases op <;> cases ls <;> cases hv <;> rfl
  exact ⟨_, .of_runs hruns, rfl, rfl, rfl, .inl htable⟩

/-- `Display` in Ready of a buffer of the wrong length completes. -/
theorem wrongLength_comesToEnd (hs : Waiting s) (hls : s.ls = .ready) (hlen : s.port.bufLen ≠ 30720) :
    ∃ t, ComesToEnd .display s t := by
  obtain ⟨u, hu, hruns⟩ := wrongBufferLengthDrivesNothing s hs hls hlen
  rw [show Instr.display = Op.display.instr from rfl, exec_instr_idle .display hs.2] at hu
  cases hu
  exact ⟨_, .of_runs hruns, rfl, rfl, rfl, .inl (by simp [hls, hlen, transition])⟩

/-- Every operation comes to an end that the table allows. -/
theorem comesToEnd (op : Op) (hs : Waiting s) (hn : NoTransportFault s) (hwait : WaitEndsFrom 0 s) (hwf : WfConfig s.cfg) :
    ∃ t, ComesToEnd op s t := by
  have ready (hv : op.validIn s.ls = true) (h : op = .clear ∨ op = .display ∨ op = .sleep) : s.ls = .ready := by
    generalize s.ls = ls at hv
    obtain rfl | rfl | rfl := h <;> cases ls <;> cases hv <;> rfl
  cases hv : op.validIn s.ls with
  | false => exact invalid_comesToEnd hs hv
  | true =>
    cases op with
    | reset => exact reset_comesToEnd hs.1 hn
    | init => exact init_comesToEnd hs.1 hn (fun h => by rw [h] at hv; cases hv) hwf hwait
    | clear => exact refresh_comesToEnd hs.1 hn (ready hv (by simp)) (.inl rfl) hwf.polls hwait
    | display =>
      by_cases hlen : s.port.bufLen = 30720
      · exact refresh_comesToEnd hs.1 hn (ready hv (by simp)) (.inr ⟨rfl, hlen⟩) hwf.polls hwait
      · exact wrongLength_comesToEnd hs (ready hv (by simp)) hlen
    | sleep => exact sleep_comesToEnd hs.1 hn (ready hv (by simp)) hwf.polls hwait
    | convert => exact convert_comesToEnd hs

/-- An operation that comes to an end completes there. -/
theorem ComesToEnd.completesAt (hrst : s.port.rstN = true) (h : ComesToEnd op s t) : CompletesAt (accepted op s) t := by
  obtain ⟨k, hk⟩ := h.reaches
  have hport : (accepted op s).port = { s.port with opValid := false } := by cases op <;> rfl
  exact ⟨k, hk, h.run, fun j hj => runs_running (by rw [hport]; exact hrst) (by rw [hport]) hk h.opDone hj⟩

/-! ### A run of requests -/

/-- A run takes samples and fault answers from the front, and keeps the configuration. -/
theorem runs_environment (hrst : s.port.rstN = true) (hv : s.port.opValid = false) (h : runs k s = .next t) :
    ∃ m f, t.busy = busyAfter m s.busy ∧ t.faults = s.faults.drop f ∧ t.cfg = s.cfg := by
  induction k generalizing s with
  | zero =>
    cases h
    exact ⟨0, 0, rfl, rfl, rfl⟩
  | succ k ih =>
    obtain ⟨w, hstep, hw⟩ := step_of_runs h
    have hport := step_keeps_port hrst hv hstep
    obtain ⟨m, f, hbusy, hfaults⟩ := step_environment hrst hstep
    obtain ⟨m', f', hbusy', hfaults', hcfg'⟩ := ih (by rwa [hport]) (by rwa [hport]) hw
    exact ⟨m + m', f + f', by rw [hbusy', hbusy, busyAfter_add], by rw [hfaults', hfaults, List.drop_drop],
      hcfg'.trans (step_keeps_cfg_img hstep).1⟩

/-- What every request of a run finds: no operation in progress, and the premises about the answers to come. -/
structure Serving (s : State) : Prop where
  waiting : Waiting s
  noFault : NoTransportFault s
  busy : BusyEventuallyHigh s
  config : WfConfig s.cfg

/-- A request that is presented is served as the table says, and the next one can be. -/
theorem request_served (r : Request) (h : Serving s) :
    ∃ u t, step (r.present s) = .next u ∧ CompletesAt u t ∧ Serving t ∧ t.cfg = s.cfg ∧
      (s.cfg.busyTimeoutPolls = none → (t.ls, t.status) = transition (decide (r.bufLen = 30720)) r.op s.ls) := by
  obtain ⟨hs, hn, hbusy, hwf⟩ := h
  have hstep := (stepRunsTheRequestAtThePort (r.present s) hs).1 rfl
  obtain ⟨t, ht⟩ := comesToEnd (s := (r.present s).clearDone) r.op hs hn (hbusy 0) hwf
  rw [show (r.present s).port.opCode = r.op.code from rfl, decodeOpCode_code] at hstep
  have hport : (accepted r.op (r.present s).clearDone).port = { (r.present s).port with opValid := false } := by
    cases r.op <;> rfl
  have hsame : (accepted r.op (r.present s).clearDone).busy = s.busy ∧
      (accepted r.op (r.present s).clearDone).faults = s.faults ∧ (accepted r.op (r.present s).clearDone).cfg = s.cfg := by
    cases r.op <;> exact ⟨rfl, rfl, rfl⟩
  obtain ⟨hbusy0, hfaults0, hcfg0⟩ := hsame
  obtain ⟨k, hk⟩ := ht.reaches
  have hrst : (accepted r.op (r.present s).clearDone).port.rstN = true := by rw [hport]; exact hs.1
  have hv : (accepted r.op (r.present s).clearDone).port.opValid = false := by rw [hport]
  obtain ⟨m, f, hb, hf, hc⟩ := runs_environment hrst hv hk
  rw [hbusy0] at hb
  rw [hfaults0] at hf
  rw [hcfg0] at hc
  refine ⟨_, t, hstep.trans (exec_instr_idle r.op hs.2), ht.completesAt hs.1, ?_, hc, fun hpolls => ?_⟩
  · exact ⟨⟨by rw [runs_keep_port hrst hv hk]; exact hrst, ht.run⟩, noTransportFault_drop hn hf,
      busyEventuallyHigh_later hbusy m hb hc, by rwa [hc]⟩
  · obtain htable | ⟨-, -, limit, hlimit, -⟩ := ht.table
    · exact htable
    · have hnone : s.cfg.busyTimeoutPolls = some limit := hlimit
      rw [hpolls] at hnone
      cases hnone

/-- Every list of requests is served, one status for each, without the bound as the table says. -/
theorem requests_served (requests : List Request) (h : Serving s) :
    ∃ ends, Serves s requests ends ∧ ends.length = requests.length ∧
      (s.cfg.busyTimeoutPolls = none → ((ends.getLastD s).ls, ends.map (·.status)) = tableRun s.ls requests) := by
  induction requests generalizing s with
  | nil => exact ⟨[], rfl, rfl, fun _ => rfl⟩
  | cons r rest ih =>
    obtain ⟨u, t, hstep, hcomplete, hserving, hcfg, htable⟩ := request_served r h
    obtain ⟨tail, hserves, hlength, hrest⟩ := ih hserving
    refine ⟨t :: tail, ⟨u, t, tail, hstep, hcomplete, hserves, rfl⟩, congrArg (· + 1) hlength, fun hpolls => ?_⟩
    have hfirst := htable hpolls
    have htail := hrest (by rw [hcfg]; exact hpolls)
    rw [tableRun, ← hfirst, ← htail, List.getLastD_cons]
    rfl

end Sys2Proof.Machine
end

section
/-! SUPPORT. The statement of 41_protocol_driver.md about all operations and all lists of requests. -/

open Sys2Proof Sys2Proof.Machine

/-- Settles O43: each operation by its own run, a list of requests by induction, the premises holding again after each. -/
theorem everyOperationCompletesAsTheTableSays : Obligations.EveryOperationCompletesAsTheTableSays := by
  refine ⟨fun s op hs hn hwait hwf => ?_, fun s requests hfresh hn hbusy hwf => ?_⟩
  · obtain ⟨t, ht⟩ := comesToEnd op hs hn hwait (wfConfig_of_configWf hwf)
    exact ⟨_, t, exec_instr_idle op hs.2, ht.completesAt hs.1, ht.seq, ht.table⟩
  · have hreset := hfresh.2
    have hrun : s.run = false := by rw [← hreset]; rfl
    have hls : s.ls = .unpowered := by rw [← hreset]; rfl
    obtain ⟨ends, hserves, hlength, htable⟩ := requests_served requests
      ⟨⟨hfresh.1, hrun⟩, hn, hbusy, wfConfig_of_configWf hwf⟩
    rw [hls] at htable
    exact ⟨_, ⟨hfresh, ends, hserves, rfl⟩, by rw [List.length_map, hlength], htable⟩

end
